-- ==== Sys2Proof/Word.lean ====
section
/-! DEFINITION. The three unsigned widths of spec/00_scope.md R8: `u8`, `u16` and `u32`. Every value of QFC is
unsigned, and nothing sign-extends. -/

namespace Sys2Proof

/-- A `u8`: one byte of a frame or of the frame buffer (R8). -/
abbrev Byte := BitVec 8

/-- A `u16`: a sequence number, a length, a checksum (R8). -/
abbrev Half := BitVec 16

/-- A `u32`: a register value or a command word (R8, R50). -/
abbrev Word := BitVec 32

end Sys2Proof
end

