-- ==== Sys2Proof/Syntax.lean ====
section
/-! DEFINITION. The commands of QFC (spec/30_encoding.md R72, spec/opcode_table.json): one constructor per row. -/

namespace Sys2Proof

/-- A legal command. Each keeps the ARG field of its command word (R70), also where the command ignores it (R73), so
that a command and its word determine each other and "ARG is ignored" is a statement about the machine. Log entry 8. -/
inductive Instr where
  /-- NOP, OPC 0x00 (R170). -/
  | nop (arg : Half)
  /-- CRC_CLEAR, OPC 0x01 (R110). -/
  | crcClear (arg : Half)
  /-- CRC_WORD, OPC 0x02: ARG is the word to add (R111). -/
  | crcWord (arg : Half)
  /-- CRC_BYTE, OPC 0x03: ARG[7:0] is the byte to add (R112). -/
  | crcByte (arg : Half)
  /-- ENCODE, OPC 0x10 (R130). -/
  | encode (arg : Half)
  /-- DECODE, OPC 0x11 (R134). -/
  | decode (arg : Half)
  /-- SRST, OPC 0xFF (R171). -/
  | srst (arg : Half)
  deriving DecidableEq, Repr

/-- The ARG field a command carries (R70). -/
def Instr.arg : Instr → Half
  | .nop a => a
  | .crcClear a => a
  | .crcWord a => a
  | .crcByte a => a
  | .encode a => a
  | .decode a => a
  | .srst a => a

end Sys2Proof
end

