-- ==== Sys2Proof/WellFormed.lean ====
section
/-! DEFINITION. Which command words are legal (spec/30_encoding.md R70, R71, R72, R74). An `Instr` needs no check of
its own: its only field is a 16-bit ARG, and every value of it is legal (R73). Log entry 8. -/

namespace Sys2Proof

/-- OPC, bits 7:0 of a command word (R70). -/
def opcField (v : Word) : Byte := v.extractLsb' 0 8

/-- RSV, bits 15:8 of a command word; it must be 0 (R70). -/
def rsvField (v : Word) : Byte := v.extractLsb' 8 8

/-- ARG, bits 31:16 of a command word (R70, R73). -/
def argField (v : Word) : Half := v.extractLsb' 16 16

/-- The seven OPC values of the opcode map (R72). -/
def legalOpcodes : List Byte := [0x00, 0x01, 0x02, 0x03, 0x10, 0x11, 0xFF]

/-- RSV is 0 (R71, first condition). -/
def WellFormed.rsv (v : Word) : Bool := rsvField v == 0

/-- OPC is one of the seven (R71, second condition). -/
def WellFormed.opc (v : Word) : Bool := legalOpcodes.contains (opcField v)

/-- "A command word `v` is legal if and only if both hold" (R71). -/
def WellFormed.word (v : Word) : Bool := WellFormed.rsv v && WellFormed.opc v

end Sys2Proof
end

