-- ==== Sys2Proof/Decode.lean ====
section
/-! DEFINITION. Decoding and encoding of command words (spec/30_encoding.md R70 to R75). Decoding is total and reads
no state (R71). -/

namespace Sys2Proof

/-- Why a command word is illegal (R74). Both reasons have the one effect of R172. -/
inductive Illegal where
  /-- RSV, bits 15:8, is not 0 (U8). -/
  | reservedBits
  /-- OPC is not in the opcode map (U7). -/
  | reservedOpcode (opc : Byte)
  deriving DecidableEq, Repr

/-- The command of a legal OPC value, given its ARG (R72). -/
def commandOf (opc : Byte) (arg : Half) : Option Instr :=
  if opc = 0x00 then some (.nop arg)
  else if opc = 0x01 then some (.crcClear arg)
  else if opc = 0x02 then some (.crcWord arg)
  else if opc = 0x03 then some (.crcByte arg)
  else if opc = 0x10 then some (.encode arg)
  else if opc = 0x11 then some (.decode arg)
  else if opc = 0xFF then some (.srst arg)
  else none

/-- The command a 32-bit word encodes, or why it is illegal (R71, R74). -/
def decode (v : Word) : Except Illegal Instr :=
  if rsvField v = 0 then
    match commandOf (opcField v) (argField v) with
    | some i => .ok i
    | none => .error (.reservedOpcode (opcField v))
  else .error .reservedBits

/-- The OPC value of a command (R72). -/
def opcodeOf : Instr → Byte
  | .nop _ => 0x00
  | .crcClear _ => 0x01
  | .crcWord _ => 0x02
  | .crcByte _ => 0x03
  | .encode _ => 0x10
  | .decode _ => 0x11
  | .srst _ => 0xFF

/-- A command word from its fields: `AAAAAAAAAAAAAAAA00000000OOOOOOOO` (R70). -/
def commandWord (opc : Byte) (arg : Half) : Word := arg ++ (0x00 : Byte) ++ opc

/-- The word of a command (R70, R72). -/
def encode (i : Instr) : Word := commandWord (opcodeOf i) i.arg

/-- One row of spec/opcode_table.json: the words `v` with `v & mask = match` are the command `make ARG`. -/
structure OpcodeRow where
  /-- The row's "mnemonic". -/
  mnemonic : String
  /-- The row's "match". -/
  pattern : Word
  /-- The row's "mask". -/
  mask : Word
  /-- The command, from its ARG. -/
  make : Half → Instr

/-- spec/opcode_table.json, row by row: "every row has mask 0x0000FFFF and match equal to its OPC" (R72). -/
def opcodeTable : List OpcodeRow :=
  [ ⟨"NOP", 0x00000000, 0x0000FFFF, .nop⟩,
    ⟨"CRC_CLEAR", 0x00000001, 0x0000FFFF, .crcClear⟩,
    ⟨"CRC_WORD", 0x00000002, 0x0000FFFF, .crcWord⟩,
    ⟨"CRC_BYTE", 0x00000003, 0x0000FFFF, .crcByte⟩,
    ⟨"ENCODE", 0x00000010, 0x0000FFFF, .encode⟩,
    ⟨"DECODE", 0x00000011, 0x0000FFFF, .decode⟩,
    ⟨"SRST", 0x000000FF, 0x0000FFFF, .srst⟩ ]

/-- The command this decoder reads from an opcode-table word `w` of `nbits` bits, the bits above them 0. A command is
one 32-bit number with no byte order (R54, R75), so a value that does not fit in 32 bits is no command. Log entry 7. -/
def decodeTableWord (nbits w : Nat) : Option Instr :=
  let v := w % 2 ^ nbits
  if v < 2 ^ 32 then
    match decode (BitVec.ofNat 32 v) with
    | .ok i => some i
    | .error _ => none
  else none

end Sys2Proof
end

