-- ==== Sys2Proof/Config.lean ====
section
/-! DEFINITION. What is fixed for one QFC: the constants of spec/00_scope.md R6, the four implementation
parameters of R7, and the free value of an UNWRITTEN byte (spec/93_implementation_defined.md U1). -/

namespace Sys2Proof

/-- ODD_TAIL: how the CPS checksum treats a final odd byte (R7, R101, U2). -/
inductive OddTail where
  /-- A final byte is the low byte of a word whose high byte is 0. -/
  | padZero
  /-- A final byte is left out of the sum. -/
  | ignore
  deriving DecidableEq, Repr, Inhabited

/-- What the length field of a firmware frame counts (R7, R78, U3). -/
inductive FwLength where
  /-- FW_LEN_BASE = 0: the payload alone. -/
  | payloadOnly
  /-- FW_LEN_BASE = 4: the whole frame. -/
  | wholeFrame
  deriving DecidableEq, Repr, Inhabited

/-- The implementation parameters of R7, which the spec says "the model takes as an argument". A term of this type
is always legal: the bounds of BUF_BYTES are in the type of `bufExtra`. Log entry 4. -/
structure Config where
  /-- BUF_BYTES - 12, so that 12 ≤ BUF_BYTES ≤ 65535 holds of every term. -/
  bufExtra : Fin 65524
  /-- ODD_TAIL. -/
  oddTail : OddTail
  /-- Decides FW_LEN_BASE. -/
  fwLength : FwLength
  /-- FW_CRC16: total and pure, nothing else is known of it (R105). -/
  fwCrc16 : List Byte → Half
  deriving Inhabited

namespace Config

/-- BUF_BYTES, the size of the frame buffer in bytes (R7, R35). -/
def bufBytes (c : Config) : Nat := c.bufExtra.val + 12

/-- FW_LEN_BASE: declared length of a firmware frame = payload length + FW_LEN_BASE (R7, R78). -/
def fwLenBase (c : Config) : Nat :=
  match c.fwLength with
  | .payloadOnly => 0
  | .wholeFrame => 4

/-- The parameters of the QFC at hand. The spec leaves all four open (R7: "None has a value in the source"), so this
constant has no body and nothing can be proved of it that does not hold for every legal choice. Log entry 4. -/
opaque here : Config

/-- The value an UNWRITTEN byte of FB reads as (U1, "any value"): one free value for each draw and each FB index.
No body, so no claim can rest on it. Log entry 3. -/
opaque freeByte : Nat → Nat → Byte

end Config

/-- START_MARKER: byte 0 of a CPS or no-CRC frame (R6). -/
def startMarker : Byte := 0x7E

/-- RSVD_BYTE: byte 2 of a CPS or no-CRC frame, as ENCODE emits it (R6). -/
def rsvdByte : Byte := 0x00

/-- CRC_PLACEHOLDER: the checksum slot's two bytes while the checksum is computed (R6, C2). -/
def crcPlaceholder : List Byte := [0x00, 0x00]

/-- MAX_FRAME: the largest frame length a 16-bit length field holds (R6). -/
def maxFrame : Nat := 0xFFFF

end Sys2Proof
end

