-- ==== Sys2Proof/Machine/State.lean ====
section
/-! DEFINITION. The state of QFC: the record of spec/10_state.md R38, and beside it the model's own record of what the
host does. -/

namespace Sys2Proof.Machine

open Sys2Proof

/-- CTRL.MODE, the frame shape ENCODE and DECODE use (R22). The reserved value 3 is never held (U11). Log entry 11. -/
inductive Mode where
  /-- 0: the normal/CPS frame. -/
  | cps
  /-- 1: the firmware frame. -/
  | fw
  /-- 2: the no-CRC variant. -/
  | nocrc
  deriving DecidableEq, Repr

/-- STATUS.ERR, the result of the last command (R24, R180). The codes 6 to 15 are never produced (U6). Log entry 11. -/
inductive ErrCode where
  /-- 0: no error. -/
  | none
  /-- 1: DECODE, the frame does not begin with 0x7E (R135). -/
  | badMarker
  /-- 2: DECODE, short frame or declared length wrong (R136). -/
  | lengthMismatch
  /-- 3: DECODE, declared and recomputed checksum differ; the one soft error (R140, R181). -/
  | crc16Mismatch
  /-- 4: ENCODE or DECODE, the frame does not fit (R131, R136). -/
  | lenOverflow
  /-- 5: an illegal command word (R172). -/
  | illegalCmd
  deriving DecidableEq, Repr

/-- The twelve registers of the register map (R34). -/
inductive Reg where
  | ctrl | cmd | status | crcAcc | crcOut | flen | txHdr | txSeqPlen | rxHdr | rxSeqDlen | rxCrc | rxMisc
  deriving DecidableEq, Repr

/-- One host access: "The four primitives … are all the host can do to QFC" (R50, R51, R52). -/
inductive Access where
  /-- `RegRead(off)`. -/
  | regRead (off : Nat)
  /-- `RegWrite(off, v)`. -/
  | regWrite (off : Nat) (v : Word)
  /-- `BufRead(i)`. -/
  | bufRead (i : Nat)
  /-- `BufWrite(i, b)`. -/
  | bufWrite (i : Nat) (b : Byte)
  deriving DecidableEq, Repr

/-- What comes to QFC from outside: a host access, or a hardware reset (R200, R201; log entry 5). -/
inductive Input where
  | host (a : Access)
  | hardReset
  deriving DecidableEq, Repr

/-- The value one host read returned ("the script records the value", R80). -/
inductive Reading where
  /-- `RegRead(off)` returned `v`. -/
  | reg (off : Nat) (v : Word)
  /-- `BufRead(i)` returned `b`. -/
  | buf (i : Nat) (b : Byte)
  deriving DecidableEq, Repr

/-- The frame buffer FB (R35): the written bytes with their indices, the indices strictly rising. An index that is not
listed is UNWRITTEN (R38, U1). Log entry 10. -/
abbrev Memory := List Host.Cell

/-- "For a model, QFC's state is exactly this record" (R38), then three fields of the model's own. Registers are kept
as their fields; the 32-bit value the host reads is assembled in Machine/Ops.lean. -/
structure State where
  /-- CTRL.MODE (R22). -/
  mode : Mode
  /-- STATUS.ERR (R24). -/
  err : ErrCode
  /-- STATUS.RXV: the RX registers hold the fields of the last frame DECODE accepted (R24). -/
  rxv : Bool
  /-- STATUS.CRCM: that frame's declared checksum differed from the recomputed one (R24). -/
  crcm : Bool
  /-- CRC_ACC.ACC, the streaming sum (R25). -/
  acc : Half
  /-- FLEN, the number of frame bytes in FB (R27). -/
  flen : Half
  /-- TX_HDR.TYPE (R28). -/
  txType : Byte
  /-- TX_HDR.FLAGS (R28). -/
  txFlags : Byte
  /-- TX_HDR.SRC (R28). -/
  txSrc : Byte
  /-- TX_HDR.DEST (R28). -/
  txDest : Byte
  /-- TX_SEQ_PLEN.SEQ (R29). -/
  txSeq : Half
  /-- TX_SEQ_PLEN.PLEN (R29). -/
  txPlen : Half
  /-- RX_HDR.TYPE (R30). -/
  rxType : Byte
  /-- RX_HDR.FLAGS (R30). -/
  rxFlags : Byte
  /-- RX_HDR.SRC (R30). -/
  rxSrc : Byte
  /-- RX_HDR.DEST (R30). -/
  rxDest : Byte
  /-- RX_SEQ_DLEN.SEQ (R31). -/
  rxSeq : Half
  /-- RX_SEQ_DLEN.DLEN (R31). -/
  rxDlen : Half
  /-- RX_CRC.DECL (R32). -/
  rxDecl : Half
  /-- RX_CRC.CALC (R32). -/
  rxCalc : Half
  /-- RX_MISC.RSVD (R33). -/
  rxRsvd : Byte
  /-- RX_MISC.POFF (R33). -/
  rxPoff : Byte
  /-- RX_MISC.PLEN (R33). -/
  rxPlen : Half
  /-- FB (R35). -/
  fb : Memory
  /-- The model's own: how many accesses have read an UNWRITTEN byte so far (U1; log entry 3). -/
  draws : Nat
  /-- The model's own: what the outside world still does to QFC, oldest first (log entry 1). -/
  inputs : List Input
  /-- The model's own: what the host's reads returned, oldest first (R80; log entry 1). -/
  recorded : List Reading
  deriving DecidableEq, Repr

/-- The state right after a hardware reset (R200, R201): every register 0, MODE = CPS, FB UNWRITTEN; nothing has
happened yet and nothing is waiting to happen. -/
def State.reset : State where
  mode := .cps
  err := .none
  rxv := false
  crcm := false
  acc := 0
  flen := 0
  txType := 0
  txFlags := 0
  txSrc := 0
  txDest := 0
  txSeq := 0
  txPlen := 0
  rxType := 0
  rxFlags := 0
  rxSrc := 0
  rxDest := 0
  rxSeq := 0
  rxDlen := 0
  rxDecl := 0
  rxCalc := 0
  rxRsvd := 0
  rxPoff := 0
  rxPlen := 0
  fb := []
  draws := 0
  inputs := []
  recorded := []

/-- The faults of QFC: there are none. "No error changes the flow of anything" (R184); an error is a value of
STATUS.ERR. Nothing raises a fault, which claims no stop the hardware could make. Log entry 6. -/
inductive Fault where
  deriving DecidableEq, Repr

/-- The refusals. -/
inductive Refusal where
  /-- An instruction that has no meaning yet, by its mnemonic. Only an arm of `exec` may raise it, and none does:
  every command of the opcode table has its meaning. Safe. -/
  | notModelled (mnemonic : String)
  deriving DecidableEq, Repr

end Sys2Proof.Machine
end

