-- ==== Sys2Proof/Machine/Flags.lean ====
section
/-! DEFINITION. QFC's flags: STATUS.ERR, STATUS.RXV and STATUS.CRCM (spec/10_state.md R24, R37), their numeric codes
(spec/60_exceptions.md R180), and who writes them. There are no arithmetic condition codes. -/

namespace Sys2Proof.Machine

open Sys2Proof

/-- The numeric error codes (R180). -/
def errCode : ErrCode → BitVec 4
  | .none => 0
  | .badMarker => 1
  | .lengthMismatch => 2
  | .crc16Mismatch => 3
  | .lenOverflow => 4
  | .illegalCmd => 5

/-- The STATUS register: ERR in bits 3:0, RXV in bit 8, CRCM in bit 9, every other bit 0 (R24). -/
def statusWord (s : State) : Word :=
  (0 : BitVec 22) ++ BitVec.ofBool s.crcm ++ BitVec.ofBool s.rxv ++ (0 : BitVec 4) ++ errCode s.err

/-- "`STATUS.ERR <- e`"; RXV and CRCM keep their values. "Every command, legal or not, writes ERR" (R24, R37, D27). -/
def setErr (e : ErrCode) (s : State) : State := { s with err := e }

/-- The frame-valid flags, which only DECODE and SRST write (R24, R37). -/
def setRxFlags (valid mismatch : Bool) (s : State) : State := { s with rxv := valid, crcm := mismatch }

end Sys2Proof.Machine
end

