-- ==== Sys2Proof/Machine/Operands.lean ====
section
/-! DEFINITION. Operands: the ARG forms of spec/30_encoding.md R73, and the byte-list helpers of spec/00_scope.md R9
by which header fields enter and leave a frame. -/

namespace Sys2Proof.Machine

open Sys2Proof

/-- The operand of CRC_WORD: all of ARG (R73). -/
def wordOperand (arg : Half) : Half := arg

/-- The operand of CRC_BYTE: `zext_16(ARG[7:0])`; ARG[15:8] is ignored (R73). -/
def byteOperand (arg : Half) : Half := (arg.extractLsb' 0 8).zeroExtend 16

/-- The high byte `v[15:8]`. -/
def hiByte (v : Half) : Byte := v.extractLsb' 8 8

/-- The low byte `v[7:0]`. -/
def loByte (v : Half) : Byte := v.extractLsb' 0 8

/-- `BE16(v)`: most significant byte first (R9). -/
def be16 (v : Half) : List Byte := [hiByte v, loByte v]

/-- `LE16(v)`: least significant byte first (R9). -/
def le16 (v : Half) : List Byte := [loByte v, hiByte v]

/-- `b[i]`. The rules read only indices below `len(b)`; beyond it this is 0, and no meaning uses that value. -/
def byteAt (b : List Byte) (i : Nat) : Byte := b.getD i 0

/-- `rdBE16(b, i) = b[i]·256 + b[i+1]` (R9). -/
def rdBE16 (b : List Byte) (i : Nat) : Half := byteAt b i ++ byteAt b (i + 1)

/-- `rdLE16(b, i) = b[i] + b[i+1]·256` (R9). -/
def rdLE16 (b : List Byte) (i : Nat) : Half := byteAt b (i + 1) ++ byteAt b i

/-- HDR_LEN: the number of header bytes before the payload (R6). -/
def hdrLen : Mode → Nat
  | .cps => 12
  | .nocrc => 10
  | .fw => 4

/-- Whether a mode's frame begins with the start marker: "The firmware frame has 'no markers'" (R135). -/
def hasMarker : Mode → Bool
  | .cps => true
  | .nocrc => true
  | .fw => false

/-- The MODE field's value (R22). -/
def modeCode : Mode → BitVec 2
  | .cps => 0
  | .fw => 1
  | .nocrc => 2

/-- The mode a MODE field value selects; 3 is reserved (R22). -/
def modeOfCode (c : BitVec 2) : Option Mode :=
  if c = 0 then some .cps
  else if c = 1 then some .fw
  else if c = 2 then some .nocrc
  else none

/-- The offset of a register in the register space (R34). -/
def regOffset : Reg → Nat
  | .ctrl => 0x00
  | .cmd => 0x04
  | .status => 0x08
  | .crcAcc => 0x0C
  | .crcOut => 0x10
  | .flen => 0x14
  | .txHdr => 0x18
  | .txSeqPlen => 0x1C
  | .rxHdr => 0x20
  | .rxSeqDlen => 0x24
  | .rxCrc => 0x28
  | .rxMisc => 0x2C

/-- The twelve registers in the order of the map (R34). -/
def registerMap : List Reg :=
  [.ctrl, .cmd, .status, .crcAcc, .crcOut, .flen, .txHdr, .txSeqPlen, .rxHdr, .rxSeqDlen, .rxCrc, .rxMisc]

/-- The register at an offset; none at every other offset, misaligned ones among them (R55). -/
def regAt (off : Nat) : Option Reg := registerMap.find? (fun r => regOffset r == off)

end Sys2Proof.Machine
end

