-- ==== Sys2Proof/Machine/Ops.lean ====
section
/-! DEFINITION. The named operations over the frame buffer and the registers, and how a command ends in an error. -/

namespace Sys2Proof.Machine

open Sys2Proof

/-! ## The frame buffer as data -/

/-- The byte written at an index, or none where it is UNWRITTEN (R38). -/
def Memory.get? : Memory → Nat → Option Byte
  | [], _ => none
  | (a, b) :: m, i => if a = i then some b else Memory.get? m i

/-- Writes one byte; the indices stay strictly rising. -/
def Memory.set : Memory → Nat → Byte → Memory
  | [], i, b => [(i, b)]
  | (a, c) :: m, i, b =>
    if i < a then (i, b) :: (a, c) :: m
    else if i = a then (i, b) :: m
    else (a, c) :: Memory.set m i b

/-- `MemWrite(i, n, v)` (R10): writes a byte list from an index on. -/
def Memory.write : Memory → Nat → List Byte → Memory
  | m, _, [] => m
  | m, i, b :: bs => Memory.write (Memory.set m i b) (i + 1) bs

/-- The canonical form: the indices strictly rise. An UNWRITTEN byte has no value, so there is no entry to leave out.
Log entry 10. -/
def Memory.wf : Memory → Bool
  | [] => true
  | (a, _) :: m => m.all (fun c => decide (a < c.1)) && Memory.wf m

/-- Every listed index is below `n`. -/
def Memory.below (n : Nat) (m : Memory) : Bool := m.all (fun c => decide (c.1 < n))

/-! ## Reading the frame buffer -/

/-- One byte of FB as an access reads it: the byte written there, or, where it is UNWRITTEN, "an arbitrary u8" (U1): the
free value of this draw at this index. -/
def readByte (s : State) (i : Nat) : Byte := (Memory.get? s.fb i).getD (Config.freeByte s.draws i)

/-- `MemRead(i, n)`: the byte list `FB[i], …, FB[i+n-1]` (R10). -/
def memRead (s : State) (i n : Nat) : List Byte := (List.range' i n).map (readByte s)

/-- Whether every byte of `FB[i .. i+n)` has been written. -/
def allWritten (m : Memory) (i n : Nat) : Bool := (List.range' i n).all (fun k => (Memory.get? m k).isSome)

/-- The state after an access has read `FB[i .. i+n)`: unchanged, but where a byte was UNWRITTEN the draw is used up, so
that the next access to read an UNWRITTEN byte may get another value (U1; log entry 3). -/
def afterRead (s : State) (i n : Nat) : State :=
  if allWritten s.fb i n then s else { s with draws := s.draws + 1 }

/-! ## How a command ends -/

/-- `raise E`: "the command ends at once: `STATUS.ERR <- E` … nothing else changes" (R10). QFC's one form of exception:
"QFC saves no state, has no vector, changes no mode" (R184). -/
def raise (e : ErrCode) (s : State) : State := setErr e s

/-- `raise E` in DECODE: "on raise" also clears RXV and CRCM, and leaves the RX registers as they were (R134, R141). -/
def raiseRejected (e : ErrCode) (s : State) : State := setRxFlags false false (raise e s)

/-- A command that succeeds: `STATUS.ERR <- NONE` (R37). -/
def complete (s : State) : State := setErr .none s

/-- An illegal command word: `STATUS.ERR <- ILLEGAL_CMD`, "the whole effect" (R172). -/
def illegalCommand (s : State) : State := raise .illegalCmd s

/-- Every register at its reset value, FB as it was (R171, R200): what SRST does and what a hardware reset does to the
registers. -/
def resetRegisters (s : State) : State :=
  { State.reset with fb := s.fb, draws := s.draws, inputs := s.inputs, recorded := s.recorded }

/-- A hardware reset: the registers as R200 says, and "FB's contents after a hardware reset are unspecified" (R201).
Log entry 5. -/
def hardReset (s : State) : State := { resetRegisters s with fb := [] }

/-! ## The registers as the host sees them -/

/-- The value of a register, assembled from its fields; reserved fields read as 0 (R22 to R34). -/
def readReg (s : State) : Reg → Word
  | .ctrl => (0 : BitVec 30) ++ modeCode s.mode
  | .cmd => 0
  | .status => statusWord s
  | .crcAcc => (0 : Half) ++ s.acc
  | .crcOut => (0 : Half) ++ ~~~ s.acc
  | .flen => (0 : Half) ++ s.flen
  | .txHdr => s.txDest ++ s.txSrc ++ s.txFlags ++ s.txType
  | .txSeqPlen => s.txPlen ++ s.txSeq
  | .rxHdr => s.rxDest ++ s.rxSrc ++ s.rxFlags ++ s.rxType
  | .rxSeqDlen => s.rxDlen ++ s.rxSeq
  | .rxCrc => s.rxCalc ++ s.rxDecl
  | .rxMisc => s.rxPlen ++ s.rxPoff ++ s.rxRsvd

/-- `RegRead(off)`: 0 at an offset with no register (R55). It changes nothing (R57). -/
def regRead (s : State) (off : Nat) : Word :=
  match regAt off with
  | some r => readReg s r
  | none => 0

/-- What a host write stores in a register other than CMD (R22 to R34): a read-write field takes its bits of `v`,
reserved bits of `v` are ignored, a read-only register keeps its value, and MODE = 3 is not stored. -/
def writeReg (s : State) (r : Reg) (v : Word) : State :=
  match r with
  | .ctrl =>
    match modeOfCode (v.extractLsb' 0 2) with
    | some m => { s with mode := m }
    | none => s
  | .crcAcc => { s with acc := v.extractLsb' 0 16 }
  | .flen => { s with flen := v.extractLsb' 0 16 }
  | .txHdr =>
    { s with
      txType := v.extractLsb' 0 8, txFlags := v.extractLsb' 8 8,
      txSrc := v.extractLsb' 16 8, txDest := v.extractLsb' 24 8 }
  | .txSeqPlen => { s with txSeq := v.extractLsb' 0 16, txPlen := v.extractLsb' 16 16 }
  | .cmd | .status | .crcOut | .rxHdr | .rxSeqDlen | .rxCrc | .rxMisc => s

/-! ## The buffer space as the host sees it -/

/-- `BufRead(i)`: the value it returns; 0 at or beyond BUF_BYTES (R51, R56). -/
def bufReadValue (cfg : Config) (s : State) (i : Nat) : Byte :=
  if i < cfg.bufBytes then readByte s i else 0

/-- `BufRead(i)`: the state it leaves, which is the state it found unless the byte was UNWRITTEN (R56, R57, U1). -/
def bufReadState (cfg : Config) (s : State) (i : Nat) : State :=
  if i < cfg.bufBytes then afterRead s i 1 else s

/-- `BufWrite(i, b)`: ignored at or beyond BUF_BYTES (R51, R56). -/
def bufWrite (cfg : Config) (s : State) (i : Nat) (b : Byte) : State :=
  if i < cfg.bufBytes then { s with fb := Memory.set s.fb i b } else s

/-- Notes the value a host read returned (R80). -/
def record (r : Reading) (s : State) : State := { s with recorded := s.recorded ++ [r] }

end Sys2Proof.Machine
end

