-- ==== Sys2Proof/Machine/Control.lean ====
section
/-! DEFINITION. The control commands (spec/42_control.md). -/

namespace Sys2Proof.Machine

open Sys2Proof

/-- NOP (R170): reports success and does nothing else. -/
def execNop (_arg : Half) (s : State) : Host.Outcome State Fault Refusal := .next (complete s)

/-- SRST (R171): every register to its reset value, FB kept. -/
def execSrst (_arg : Half) (s : State) : Host.Outcome State Fault Refusal := .next (resetRegisters s)

end Sys2Proof.Machine
end

