-- ==== Sys2Proof/Machine/Checksum.lean ====
section
/-! DEFINITION. The CRC functions of spec/40_crc16.md section 1. Despite the name, the CPS "CRC16" is a
ones'-complement sum: nothing here uses a polynomial. -/

namespace Sys2Proof.Machine

open Sys2Proof

/-- `oc_add(a, w)`: 16-bit addition with end-around carry (R100). The sum is computed as an unbounded integer; its low
16 bits and its carry are then added. -/
def ocAdd (a w : Half) : Half :=
  let t := a.toNat + w.toNat
  BitVec.ofNat 16 (t % 0x10000 + t / 0x10000)

/-- The little-endian words of a byte list (R101); a final odd byte counts as `oddTail` says. -/
def frameWords (oddTail : OddTail) : List Byte → List Half
  | [] => []
  | [b] =>
    match oddTail with
    | .padZero => [(0x00 : Byte) ++ b]
    | .ignore => []
  | lo :: hi :: rest => (hi ++ lo) :: frameWords oddTail rest

/-- The sum of `words(b)`, an unbounded integer (R102). -/
def wordSum (ws : List Half) : Nat := (ws.map BitVec.toNat).sum

/-- The loop of R102, "fold until no carry is left" (C7), with a bound on its number of turns. A turn lowers `S`, so
`S` turns are always enough. -/
def foldCarries : Nat → Nat → Nat
  | 0, S => S
  | k + 1, S => if 0xFFFF < S then foldCarries k (S % 0x10000 + S / 0x10000) else S

/-- `ocsum(b)`: the ones'-complement sum of a byte list's words (R102). -/
def ocSum (oddTail : OddTail) (b : List Byte) : Half :=
  let S := wordSum (frameWords oddTail b)
  BitVec.ofNat 16 (foldCarries S S)

/-- `crc16_cps(b) = ~ocsum(b)` (R103). -/
def crc16Cps (oddTail : OddTail) (b : List Byte) : Half := ~~~ ocSum oddTail b

end Sys2Proof.Machine
end

