-- ==== Sys2Proof/Machine/Crc16.lean ====
section
/-! DEFINITION. The streaming CRC commands (spec/40_crc16.md section 3). They act on CRC_ACC alone, whatever CTRL.MODE
holds (R104). -/

namespace Sys2Proof.Machine

open Sys2Proof

/-- Adds one word to the streaming sum and reports success: the common part of R111 and R112. -/
def accumulate (w : Half) (s : State) : State := complete { s with acc := ocAdd s.acc w }

/-- CRC_CLEAR (R110). -/
def execCrcClear (_arg : Half) (s : State) : Host.Outcome State Fault Refusal :=
  .next (complete { s with acc := 0 })

/-- CRC_WORD (R111). -/
def execCrcWord (arg : Half) (s : State) : Host.Outcome State Fault Refusal :=
  .next (accumulate (wordOperand arg) s)

/-- CRC_BYTE (R112). -/
def execCrcByte (arg : Half) (s : State) : Host.Outcome State Fault Refusal :=
  .next (accumulate (byteOperand arg) s)

end Sys2Proof.Machine
end

