-- ==== Sys2Proof/Machine/FrameCodec.lean ====
section
/-! DEFINITION. ENCODE and DECODE (spec/41_frame_codec.md), for any parameters of spec/00_scope.md R7; the commands
themselves run them at the parameters of the QFC at hand, `Config.here`. -/

namespace Sys2Proof.Machine

open Sys2Proof

/-! ## ENCODE -/

/-- `n = HDR_LEN(MODE) + PLEN`, computed without wrap-around (R131). -/
def txFrameLen (s : State) : Nat := hdrLen s.mode + s.txPlen.toNat

/-- Whether the frame is too long for the 16-bit length field or for FB (R131). -/
def txOverflows (cfg : Config) (s : State) : Bool :=
  decide (maxFrame < txFrameLen s) || decide (cfg.bufBytes < txFrameLen s)

/-- Bytes 0 to 9 of a CPS or no-CRC frame (R132): the header up to and including the length. -/
def txHeader (s : State) : List Byte :=
  [startMarker, s.txType, rsvdByte, s.txFlags, s.txSrc, s.txDest] ++ be16 s.txSeq
    ++ be16 (BitVec.ofNat 16 (txFrameLen s))

/-- Bytes 0 to 1 of a firmware frame: `LE16(L)` with `L = PLEN + FW_LEN_BASE` (R133). -/
def txFwLength (cfg : Config) (s : State) : List Byte :=
  le16 (BitVec.ofNat 16 (s.txPlen.toNat + cfg.fwLenBase))

/-- The payload bytes, as ENCODE reads them from `FB[HDR_LEN .. HDR_LEN + PLEN)` (R130). -/
def txPayload (s : State) : List Byte := memRead s (hdrLen s.mode) s.txPlen.toNat

/-- The header ENCODE writes to `FB[0 .. HDR_LEN)` (R130, R132, R133). The checksum is that of the whole frame with its
own slot at the placeholder. -/
def txHeaderBytes (cfg : Config) (s : State) : List Byte :=
  match s.mode with
  | .cps => txHeader s ++ le16 (crc16Cps cfg.oddTail (txHeader s ++ crcPlaceholder ++ txPayload s))
  | .nocrc => txHeader s
  | .fw => txFwLength cfg s ++ le16 (cfg.fwCrc16 (txFwLength cfg s ++ crcPlaceholder ++ txPayload s))

/-- The state after ENCODE has read what its mode reads: the payload where the frame has a checksum, nothing in the
no-CRC variant (R130; log entry 9). -/
def afterPayloadRead (s : State) : State :=
  match s.mode with
  | .cps | .fw => afterRead s (hdrLen s.mode) s.txPlen.toNat
  | .nocrc => s

/-- ENCODE (R130 to R133): builds the frame header in place, in front of the payload. -/
def encodeFrame (cfg : Config) (s : State) : State :=
  if txOverflows cfg s then raise .lenOverflow s
  else
    complete { afterPayloadRead s with
      fb := Memory.write s.fb 0 (txHeaderBytes cfg s)
      flen := BitVec.ofNat 16 (txFrameLen s) }

/-! ## DECODE -/

/-- Whether the frame's declared length agrees with its byte count (R136). -/
def lengthAgrees (cfg : Config) (m : Mode) (f : List Byte) : Bool :=
  match m with
  | .cps | .nocrc => (rdBE16 f 8).toNat == f.length
  | .fw => (rdLE16 f 0).toNat == f.length - 4 + cfg.fwLenBase

/-- The first failing check of a frame that is in FB, in the order of R183: marker, short frame, declared length. -/
def frameError (cfg : Config) (m : Mode) (f : List Byte) : Option ErrCode :=
  if hasMarker m && (f.length == 0 || byteAt f 0 != startMarker) then some .badMarker
  else if f.length < hdrLen m then some .lengthMismatch
  else if !lengthAgrees cfg m f then some .lengthMismatch
  else none

/-- The frame with its two checksum bytes from index `i` on at the placeholder (R134). -/
def zeroSlot (f : List Byte) (i : Nat) : List Byte := f.take i ++ crcPlaceholder ++ f.drop (i + 2)

/-- The declared checksum; 0 in the no-CRC variant (R134). -/
def declaredCrc (m : Mode) (f : List Byte) : Half :=
  match m with
  | .cps => rdLE16 f 10
  | .fw => rdLE16 f 2
  | .nocrc => 0

/-- The recomputed checksum; 0 in the no-CRC variant (R134). -/
def computedCrc (cfg : Config) (m : Mode) (f : List Byte) : Half :=
  match m with
  | .cps => crc16Cps cfg.oddTail (zeroSlot f 10)
  | .fw => cfg.fwCrc16 (zeroSlot f 2)
  | .nocrc => 0

/-- Copies the header fields of an accepted frame into the RX registers (R138, R139); the fields a firmware frame lacks
become 0. -/
def captureFields (m : Mode) (f : List Byte) (s : State) : State :=
  let rest : State := { s with
    rxPoff := BitVec.ofNat 8 (hdrLen m)
    rxPlen := BitVec.ofNat 16 (f.length - hdrLen m) }
  match m with
  | .cps | .nocrc =>
    { rest with
      rxType := byteAt f 1, rxFlags := byteAt f 3, rxSrc := byteAt f 4, rxDest := byteAt f 5
      rxSeq := rdBE16 f 6, rxDlen := rdBE16 f 8, rxRsvd := byteAt f 2 }
  | .fw =>
    { rest with
      rxType := 0, rxFlags := 0, rxSrc := 0, rxDest := 0
      rxSeq := 0, rxDlen := rdLE16 f 0, rxRsvd := 0 }

/-- An accepted frame (R134, R138 to R140): the fields and both checksums are captured, and a mismatch is reported but
does not reject the frame. The comparison is exact equality, not the sum identity (R107, R140). -/
def acceptFrame (cfg : Config) (m : Mode) (f : List Byte) (s : State) : State :=
  let declared := declaredCrc m f
  let computed := computedCrc cfg m f
  setErr (if declared ≠ computed then .crc16Mismatch else .none)
    (setRxFlags true (declared != computed) { captureFields m f s with rxDecl := declared, rxCalc := computed })

/-- DECODE (R134 to R141): checks the frame in `FB[0 .. FLEN)` and captures its fields. -/
def decodeFrame (cfg : Config) (s : State) : State :=
  let n := s.flen.toNat
  if cfg.bufBytes < n then raiseRejected .lenOverflow s
  else
    let f := memRead s 0 n
    match frameError cfg s.mode f with
    | some e => raiseRejected e (afterRead s 0 n)
    | none => acceptFrame cfg s.mode f (afterRead s 0 n)

/-! ## The commands -/

/-- ENCODE (R130). ARG is ignored. -/
def execEncode (_arg : Half) (s : State) : Host.Outcome State Fault Refusal :=
  .next (encodeFrame Config.here s)

/-- DECODE (R134). ARG is ignored. -/
def execDecode (_arg : Half) (s : State) : Host.Outcome State Fault Refusal :=
  .next (decodeFrame Config.here s)

end Sys2Proof.Machine
end

