-- ==== Sys2Proof/Machine/Dispatch.lean ====
section
/-! DEFINITION. The opcode map: each command runs the rule that spec/30_encoding.md R72 names. -/

namespace Sys2Proof.Machine

open Sys2Proof

def exec (i : Instr) (s : State) : Host.Outcome State Fault Refusal :=
  match i with
  | .nop arg => Sys2Proof.Machine.execNop arg s
  | .crcClear arg => Sys2Proof.Machine.execCrcClear arg s
  | .crcWord arg => Sys2Proof.Machine.execCrcWord arg s
  | .crcByte arg => Sys2Proof.Machine.execCrcByte arg s
  | .encode arg => Sys2Proof.Machine.execEncode arg s
  | .decode arg => Sys2Proof.Machine.execDecode arg s
  | .srst arg => Sys2Proof.Machine.execSrst arg s

end Sys2Proof.Machine
end

