-- ==== Sys2Proof/Machine/HostPort.lean ====
section
/-! DEFINITION. What one access of the host does (spec/20_memory.md R50 to R57, spec/10_state.md R23), and a hardware
reset. -/

namespace Sys2Proof.Machine

open Sys2Proof

/-- Runs the command that `v` encodes, to completion (R23, R71): a legal word runs its command, an illegal word runs the
illegal-command rule (R172). -/
def issueCommand (v : Word) (s : State) : Host.Outcome State Fault Refusal :=
  match decode v with
  | .ok i => exec i s
  | .error _ => .next (illegalCommand s)

/-- `RegWrite(off, v)`: a write to CMD runs a command, a write to any other register stores `v` as that register's
rule says, a write to an offset with no register changes nothing (R23, R34, R52, R55). -/
def regWrite (off : Nat) (v : Word) (s : State) : Host.Outcome State Fault Refusal :=
  match regAt off with
  | some .cmd => issueCommand v s
  | some r => .next (writeReg s r v)
  | none => .next s

/-- One host access, a single atomic step (R52). The value a read returns is recorded (R80). -/
def perform (a : Access) (s : State) : Host.Outcome State Fault Refusal :=
  match a with
  | .regRead off => .next (record (.reg off (regRead s off)) s)
  | .regWrite off v => regWrite off v s
  | .bufRead i => .next (record (.buf i (bufReadValue Config.here s i)) (bufReadState Config.here s i))
  | .bufWrite i b => .next (bufWrite Config.here s i b)

/-- One input from outside. -/
def takeInput (e : Input) (s : State) : Host.Outcome State Fault Refusal :=
  match e with
  | .host a => perform a s
  | .hardReset => .next (hardReset s)

/-- The machine's step: the oldest input leaves the list and happens (R59: accesses take effect in the order the host
issues them); with none left, QFC "waits, with no step of its own" (R202). Log entries 1, 2 and 12. -/
def stepInputs (s : State) : Host.Outcome State Fault Refusal :=
  match s.inputs with
  | [] => .next s
  | e :: rest => takeInput e { s with inputs := rest }

/-- The state in which the next thing the host does is to write `v` to CMD (R23). -/
def withCommand (s : State) (v : Word) : State :=
  { s with inputs := .host (.regWrite 0x04 v) :: s.inputs }

end Sys2Proof.Machine
end

