-- ==== Sys2Proof/Machine/Step.lean ====
section
/-! DEFINITION. The step of the machine, and how a command word is put where the next step runs it. -/

namespace Sys2Proof.Machine

open Sys2Proof

/-- One step of QFC: one input from outside happens, the command it issues included (spec/20_memory.md R52, R59). -/
def step (s : State) : Host.Outcome State Fault Refusal := stepInputs s

/-- `s`, about to receive the command word of `nbits` bits that is `w`. QFC has no program and fetches nothing (R21,
R61): a command is the value of a host's CMD write, so this puts that write before every other input. Log entries 1
and 7. -/
def State.withFetchWord (s : State) (nbits w : Nat) : State :=
  withCommand s (BitVec.ofNat 32 (w % 2 ^ nbits))

end Sys2Proof.Machine
end

