-- ==== Sys2Proof/Safety.lean ====
section
/-! DEFINITION. What holds of every state of a QFC that began in a state where it held: the terms in which the
statements speak of a safe run. -/

namespace Sys2Proof.Machine

open Sys2Proof

/-- The RX registers as a reset leaves them (R200). -/
def RxClear (s : State) : Prop :=
  s.rxType = 0 ∧ s.rxFlags = 0 ∧ s.rxSrc = 0 ∧ s.rxDest = 0 ∧ s.rxSeq = 0 ∧ s.rxDlen = 0 ∧
  s.rxDecl = 0 ∧ s.rxCalc = 0 ∧ s.rxRsvd = 0 ∧ s.rxPoff = 0 ∧ s.rxPlen = 0

/-- The RX registers as an accepted frame of some mode leaves them (R138, R139): the payload lies in FB, the declared
length agrees with the payload length, and the fields the mode's frame lacks are 0. -/
def RxAccepted (cfg : Config) (s : State) : Prop :=
  s.rxPoff.toNat + s.rxPlen.toNat ≤ cfg.bufBytes ∧
  ((s.rxPoff = 12 ∧ s.rxDlen.toNat = s.rxPlen.toNat + 12) ∨
   (s.rxPoff = 10 ∧ s.rxDlen.toNat = s.rxPlen.toNat + 10 ∧ s.rxDecl = 0 ∧ s.rxCalc = 0) ∨
   (s.rxPoff = 4 ∧ s.rxDlen.toNat = s.rxPlen.toNat + cfg.fwLenBase ∧ s.rxType = 0 ∧ s.rxFlags = 0 ∧
      s.rxSrc = 0 ∧ s.rxDest = 0 ∧ s.rxSeq = 0 ∧ s.rxRsvd = 0))

/-- The invariant of QFC. -/
structure Inv (cfg : Config) (s : State) : Prop where
  /-- FB is in its canonical form. -/
  fb_wf : Memory.wf s.fb = true
  /-- FB holds nothing beyond BUF_BYTES (R35, R56). -/
  fb_below : Memory.below cfg.bufBytes s.fb = true
  /-- The RX registers hold their reset values or the fields of an accepted frame (R213). -/
  rx_shape : RxClear s ∨ RxAccepted cfg s
  /-- RXV = 1: the RX registers hold the fields of an accepted frame, and CRCM says whether its checksums differ
  (R24, R140). -/
  rxv_accepted : s.rxv = true → RxAccepted cfg s ∧ s.crcm = (s.rxDecl != s.rxCalc)
  /-- "CRCM = 1 implies RXV = 1" (R24). -/
  crcm_rxv : s.crcm = true → s.rxv = true
  /-- ERR = CRC16_MISMATCH: the last command was a DECODE that accepted a frame with a mismatch (R140, R181). -/
  err_soft : s.err = .crc16Mismatch → s.crcm = true
  /-- ERR = BAD_MARKER or LENGTH_MISMATCH: the last command was a DECODE that accepted no frame (R141, R181). -/
  err_hard : s.err = .badMarker ∨ s.err = .lengthMismatch → s.rxv = false

/-- A safe state: QFC does not stop in it (R184: "No error changes the flow of anything"). -/
def CanStep (s : State) : Prop := ∃ t, step s = .next t

/-- `k` steps, stopping at the first fault or refusal: `Host.Core.run` of this machine, over its own state type. -/
def runSteps : Nat → State → Host.Outcome State Fault Refusal
  | 0, s => .next s
  | k + 1, s =>
    match step s with
    | .next t => runSteps k t
    | .fault r => .fault r
    | .refused r => .refused r

end Sys2Proof.Machine
end

