-- ==== Sys2Proof/Certificates/Slice0/Obligations.lean ====
section
/-! DEFINITION. The statements for the provers. Each docstring names the rules of spec/ it formalises. A statement about
ENCODE or DECODE at every parameter value (spec/00_scope.md R7) quantifies over `cfg`; the commands themselves run at
`Config.here`. -/

namespace Sys2Proof.Machine

open Sys2Proof

/-! ## Words the statements use -/

/-- The CMD writes that issue a list of commands. -/
def commandInputs (is : List Instr) : List Input := is.map fun i => .host (.regWrite 0x04 (encode i))

/-- `b[2k] + 256·b[2k+1]` for each k from 0 to floor(n/2)-1, as R113 lists the words the host passes. -/
def pairWords (b : List Byte) : List Half :=
  (List.range (b.length / 2)).map fun k => byteAt b (2 * k + 1) ++ byteAt b (2 * k)

/-- "CRC_BYTE with `b[n-1]` if n is odd and ODD_TAIL = PAD_ZERO" (R113); CRC_BYTE ignores the high byte `hi` of ARG. -/
def tailCommands (o : OddTail) (b : List Byte) (hi : Byte) : List Instr :=
  if b.length % 2 = 1 ∧ o = .padZero then [.crcByte (hi ++ byteAt b (b.length - 1))] else []

/-- The next input is a CMD write of a command of which `P` holds. -/
def NextCommand (s : State) (P : Instr → Prop) : Prop :=
  ∃ v i rest, s.inputs = .host (.regWrite 0x04 v) :: rest ∧ decode v = .ok i ∧ P i

/-- The next input is a hardware reset. -/
def NextIsReset (s : State) : Prop := ∃ rest, s.inputs = .hardReset :: rest

/-- The next input is a host write to the register at `off`. -/
def NextWrites (s : State) (off : Nat) : Prop := ∃ v rest, s.inputs = .host (.regWrite off v) :: rest

/-- The registers only DECODE, SRST and a reset write (spec/10_state.md section 6, R24, R37). -/
def SameRx (s t : State) : Prop :=
  t.rxv = s.rxv ∧ t.crcm = s.crcm ∧ t.rxType = s.rxType ∧ t.rxFlags = s.rxFlags ∧ t.rxSrc = s.rxSrc ∧
  t.rxDest = s.rxDest ∧ t.rxSeq = s.rxSeq ∧ t.rxDlen = s.rxDlen ∧ t.rxDecl = s.rxDecl ∧ t.rxCalc = s.rxCalc ∧
  t.rxRsvd = s.rxRsvd ∧ t.rxPoff = s.rxPoff ∧ t.rxPlen = s.rxPlen

/-- The fields of TX_HDR, which only host writes to it, SRST and a reset write (R28). -/
def SameTxHdr (s t : State) : Prop :=
  t.txType = s.txType ∧ t.txFlags = s.txFlags ∧ t.txSrc = s.txSrc ∧ t.txDest = s.txDest

/-- The fields of TX_SEQ_PLEN, which only host writes to it, SRST and a reset write (R29). -/
def SameTxSeqPlen (s t : State) : Prop := t.txSeq = s.txSeq ∧ t.txPlen = s.txPlen

/-- The word of the reserved OPC values: 0x04 to 0x0F and 0x12 to 0xFE (R74). -/
def ReservedOpcode (opc : Byte) : Prop :=
  (0x04 ≤ opc.toNat ∧ opc.toNat ≤ 0x0F) ∨ (0x12 ≤ opc.toNat ∧ opc.toNat ≤ 0xFE)

/-- The frame DECODE looks at (R134). -/
def rxFrame (s : State) : List Byte := memRead s 0 s.flen.toNat

/-- The checks of R135 and R136 that the frame's first byte passes: there is no marker in FW mode. -/
def MarkerFits (s : State) : Prop := s.mode = .fw ∨ (s.flen ≠ 0 ∧ byteAt (rxFrame s) 0 = 0x7E)

/-- The declared length agrees with the actual byte count (R136). -/
def LengthFits (cfg : Config) (s : State) : Prop :=
  (s.mode ≠ .fw ∧ (rdBE16 (rxFrame s) 8).toNat = s.flen.toNat) ∨
  (s.mode = .fw ∧ (rdLE16 (rxFrame s) 0).toNat = s.flen.toNat - 4 + cfg.fwLenBase)

end Sys2Proof.Machine

open Sys2Proof Sys2Proof.Machine

/-! ## Decoding and the step -/

/-- R70, R73: every command is the decoding of its word, at every value of ARG, and a legal word is the word of the
command it decodes to, so no bit is dropped. -/
def Obligations.DecodeAndEncodeAgree : Prop :=
  (∀ i : Instr, decode (encode i) = .ok i) ∧ (∀ (v : Word) (i : Instr), decode v = .ok i → encode i = v)

/-- R71, R72: a word is legal if and only if `v[15:8] = 0` and `v[7:0]` is one of the seven OPC values, each row of the
opcode map (match on mask 0x0000FFFF) is its command with ARG = `v[31:16]`, and an illegal word runs the
illegal-command rule. -/
def Obligations.DecodeFollowsTheOpcodeMap : Prop :=
  (∀ v : Word, (∃ i, decode v = .ok i) ↔
    v.extractLsb' 8 8 = 0 ∧
      v.extractLsb' 0 8 ∈ ([0x00, 0x01, 0x02, 0x03, 0x10, 0x11, 0xFF] : List Byte)) ∧
  (∀ v : Word, (v &&& 0x0000FFFF = 0x00000000 → decode v = .ok (.nop (v.extractLsb' 16 16))) ∧
    (v &&& 0x0000FFFF = 0x00000001 → decode v = .ok (.crcClear (v.extractLsb' 16 16))) ∧
    (v &&& 0x0000FFFF = 0x00000002 → decode v = .ok (.crcWord (v.extractLsb' 16 16))) ∧
    (v &&& 0x0000FFFF = 0x00000003 → decode v = .ok (.crcByte (v.extractLsb' 16 16))) ∧
    (v &&& 0x0000FFFF = 0x00000010 → decode v = .ok (.encode (v.extractLsb' 16 16))) ∧
    (v &&& 0x0000FFFF = 0x00000011 → decode v = .ok (.decode (v.extractLsb' 16 16))) ∧
    (v &&& 0x0000FFFF = 0x000000FF → decode v = .ok (.srst (v.extractLsb' 16 16)))) ∧
  (∀ (v : Word) (s : State), (∀ i, decode v = .ok i → issueCommand v s = exec i s) ∧
    ((∀ i, decode v ≠ .ok i) → issueCommand v s = .next (illegalCommand s)))

/-- The rows of `opcodeTable` (spec/opcode_table.json) and the decoder agree on every word, and no word matches two
rows. -/
def Obligations.OpcodeTableRowsDecide : Prop :=
  (∀ row ∈ opcodeTable, ∀ v : Word, v &&& row.mask = row.pattern ↔ decode v = .ok (row.make (argField v))) ∧
  opcodeTable.Pairwise (fun a b => ∀ v : Word, ¬(v &&& a.mask = a.pattern ∧ v &&& b.mask = b.pattern))

/-- Words written out from R70 and the vectors of spec/95_test_vectors.md decode to the commands they stand for. -/
def Obligations.WrittenWordsDecode : Prop :=
  decode 0x00000000 = .ok (.nop 0x0000) ∧ decode 0xFFFF0000 = .ok (.nop 0xFFFF) ∧
  decode 0x00000001 = .ok (.crcClear 0x0000) ∧ decode 0x43210002 = .ok (.crcWord 0x4321) ∧
  decode 0xAB120003 = .ok (.crcByte 0xAB12) ∧ decode 0x00000010 = .ok (.encode 0x0000) ∧
  decode 0x00000011 = .ok (.decode 0x0000) ∧ decode 0x000000FF = .ok (.srst 0x0000) ∧
  decode 0x00000110 = .error .reservedBits ∧ decode 0x00000004 = .error (.reservedOpcode 0x04)

/-- R73: CRC_WORD uses all of ARG, CRC_BYTE only ARG[7:0], zero-extended, and two words of any other command that differ
only in ARG have the same effect. -/
def Obligations.ArgMattersOnlyToTheCrcWords : Prop :=
  (∀ (v : Word) (s : State), v &&& 0x0000FFFF = 0x00000002 →
    issueCommand v s = .next { s with acc := ocAdd s.acc (v.extractLsb' 16 16), err := .none }) ∧
  (∀ (v : Word) (s : State), v &&& 0x0000FFFF = 0x00000003 →
    issueCommand v s = .next { s with acc := ocAdd s.acc ((v.extractLsb' 16 8).zeroExtend 16), err := .none }) ∧
  (∀ (v v' : Word) (s : State), v.extractLsb' 0 16 = v'.extractLsb' 0 16 →
    v &&& 0x0000FFFF ≠ 0x00000002 → v &&& 0x0000FFFF ≠ 0x00000003 → issueCommand v s = issueCommand v' s)

/-- R23: a host write of `v` to CMD (offset 0x04) issues the command `v` encodes, which runs to completion within that
one step; a read of CMD returns 0 and has no effect. The reading is recorded (log entry 1). -/
def Obligations.CmdWriteRunsTheCommand : Prop :=
  (∀ (s : State) (v : Word) (rest : List Input), s.inputs = .host (.regWrite 0x04 v) :: rest →
    (∀ i, decode v = .ok i → step s = exec i { s with inputs := rest }) ∧
    (∀ e, decode v = .error e → step s = .next { s with inputs := rest, err := .illegalCmd })) ∧
  (∀ (s : State) (rest : List Input), s.inputs = .host (.regRead 0x04) :: rest →
    step s = .next { s with inputs := rest, recorded := s.recorded ++ [.reg 0x04 0] })

/-- What `withFetchWord` sets up: the very next step runs exactly the command of the word (log entries 1 and 7). -/
def Obligations.FetchWordIsTheNextCommand : Prop :=
  ∀ (s : State) (w : Nat), step (s.withFetchWord 32 w) = issueCommand (BitVec.ofNat 32 w) s

/-- R202 (log entry 2): with nothing from the host, QFC waits and no state changes. That waiting is a step which changes nothing is
the model's choice (log entry 2). -/
def Obligations.NoInputMeansNoChange : Prop := ∀ s : State, s.inputs = [] → step s = .next s

/-- R184: "No error changes the flow of anything": whatever the next input is, QFC goes on. Two parts of this are the
model's, not the rule's: that there is no fault at all is read from R184 by inference (log entry 6, DEDUCED), and in a
state with no input, where R202 gives QFC "no step of its own", the next state is the waiting step that the model chose
(log entry 2, DESIGN CHOICE). -/
def Obligations.EveryStepHasANextState : Prop := ∀ s : State, ∃ t, step s = .next t

/-! ## The control commands -/

/-- R170: NOP sets ERR to NONE and does nothing else; its words are those with `v & 0x0000FFFF = 0`. -/
def Obligations.NopClearsErrAndNothingElse : Prop :=
  (∀ (arg : Half) (s : State), exec (.nop arg) s = .next { s with err := .none }) ∧
  (∀ (v : Word) (s : State), v &&& 0x0000FFFF = 0x00000000 → issueCommand v s = .next { s with err := .none })

/-- R171: SRST sets every register to its reset value and keeps FB, whatever its ARG; a register read then gives what it
gives right after reset, and a hardware reset differs from it in FB alone. -/
def Obligations.SrstResetsRegistersKeepsFb : Prop :=
  (∀ (arg : Half) (s : State), exec (.srst arg) s = .next
    { s with
      mode := .cps, err := .none, rxv := false, crcm := false, acc := 0, flen := 0
      txType := 0, txFlags := 0, txSrc := 0, txDest := 0, txSeq := 0, txPlen := 0
      rxType := 0, rxFlags := 0, rxSrc := 0, rxDest := 0, rxSeq := 0, rxDlen := 0
      rxDecl := 0, rxCalc := 0, rxRsvd := 0, rxPoff := 0, rxPlen := 0 }) ∧
  (∀ (v : Word) (s : State), v &&& 0x0000FFFF = 0x000000FF → ∃ t, issueCommand v s = .next t ∧ t.fb = s.fb ∧
    (∀ off, regRead t off = regRead State.reset off) ∧ hardReset s = { t with fb := [] } ∧
    regRead t 0x00 = 0 ∧ regRead t 0x08 = 0 ∧ regRead t 0x10 = 0x0000FFFF ∧ regRead t 0x14 = 0)

/-- R172, R74: a word with `v[15:8] ≠ 0` or a reserved OPC (0x04 to 0x0F, 0x12 to 0xFE) sets ERR to ILLEGAL_CMD and
changes nothing else; the reserved OPC values are exactly those not in the opcode map. -/
def Obligations.IllegalWordSetsErrAndNothingElse : Prop :=
  (∀ (v : Word) (s : State), v.extractLsb' 8 8 ≠ 0 ∨ ReservedOpcode (v.extractLsb' 0 8) →
    issueCommand v s = .next { s with err := .illegalCmd }) ∧
  (∀ opc : Byte, ReservedOpcode opc ↔ opc ∉ ([0x00, 0x01, 0x02, 0x03, 0x10, 0x11, 0xFF] : List Byte)) ∧
  (∀ s : State, issueCommand 0x00000110 s = .next { s with err := .illegalCmd } ∧
    issueCommand 0x00000004 s = .next { s with err := .illegalCmd } ∧
    issueCommand 0x00000020 s = .next { s with err := .illegalCmd })

/-- R37, R214: every command overwrites ERR, so what a command leaves does not depend on the ERR it found. -/
def Obligations.EveryCommandOverwritesErr : Prop :=
  ∀ (v : Word) (s : State) (e : ErrCode), issueCommand v { s with err := e } = issueCommand v s

/-! ## The streaming checksum -/

/-- R110: CRC_CLEAR sets ACC to 0 and ERR to NONE and changes nothing else; CRC_OUT then reads 0xFFFF. -/
def Obligations.CrcClearZeroesTheSum : Prop :=
  (∀ (arg : Half) (s : State), exec (.crcClear arg) s = .next { s with acc := 0, err := .none }) ∧
  (∀ (v : Word) (s : State), v &&& 0x0000FFFF = 0x00000001 →
    issueCommand v s = .next { s with acc := 0, err := .none }) ∧
  (∀ s : State, regRead { s with acc := 0, err := .none } 0x10 = 0x0000FFFF)

/-- R111: CRC_WORD adds ARG to ACC with end-around carry, sets ERR to NONE and changes nothing else. -/
def Obligations.CrcWordAddsArg : Prop :=
  (∀ (arg : Half) (s : State), exec (.crcWord arg) s = .next { s with acc := ocAdd s.acc arg, err := .none }) ∧
  (∀ (v : Word) (s : State), v &&& 0x0000FFFF = 0x00000002 →
    issueCommand v s = .next { s with acc := ocAdd s.acc (v.extractLsb' 16 16), err := .none }) ∧
  ocAdd 0xFFFF 0x0001 = 0x0001 ∧ ocAdd 0xFFFF 0xFFFF = 0xFFFF ∧ ocAdd 0x0000 0xFFFF = 0xFFFF ∧
  (∀ a : Half, ocAdd a 0x0000 = a) ∧ ocAdd 0x8000 0x8000 = 0x0001 ∧ ocAdd 0x1234 0x4321 = 0x5555

/-- R112: CRC_BYTE adds ARG[7:0], zero-extended, to ACC, sets ERR to NONE and changes nothing else; with ARG 0xAB12 it
acts as CRC_WORD 0x0012. -/
def Obligations.CrcByteAddsTheLowByte : Prop :=
  (∀ (arg : Half) (s : State), exec (.crcByte arg) s =
    .next { s with acc := ocAdd s.acc ((arg.extractLsb' 0 8).zeroExtend 16), err := .none }) ∧
  (∀ (v : Word) (s : State), v &&& 0x0000FFFF = 0x00000003 →
    issueCommand v s = .next { s with acc := ocAdd s.acc ((v.extractLsb' 16 8).zeroExtend 16), err := .none }) ∧
  (∀ s : State, exec (.crcByte 0xAB12) s = exec (.crcWord 0x0012) s) ∧
  ocAdd 0xFFFF 0x0001 = 0x0001 ∧ ocAdd 0x0000 0x007E = 0x007E

/-- R100: `oc_add` is the unbounded sum's low 16 bits plus its carry. -/
def Obligations.OcAddIsEndAroundCarry : Prop :=
  ∀ a w : Half, (ocAdd a w).toNat = ((a.toNat + w.toNat) &&& 0xFFFF) + ((a.toNat + w.toNat) >>> 16)

/-- R106: the laws of `oc_add`. -/
def Obligations.OcAddLaws : Prop :=
  (∀ a b : Half, ocAdd a b = ocAdd b a) ∧
  (∀ a b c : Half, ocAdd (ocAdd a b) c = ocAdd a (ocAdd b c)) ∧
  (∀ a : Half, ocAdd a 0 = a) ∧
  (∀ a : Half, a ≠ 0 → ocAdd a 0xFFFF = a) ∧ ocAdd 0 0xFFFF = 0xFFFF ∧
  (∀ a : Half, ocAdd a (~~~a) = 0xFFFF)

/-- R101: word k of a byte list is `b[2k] + 256·b[2k+1]`, and a final odd byte is a word with high byte 0 under
PAD_ZERO and no word under IGNORE. -/
def Obligations.FrameWordsArePairsAndTail : Prop :=
  (∀ (o : OddTail) (b : List Byte), ((frameWords o b).take (b.length / 2)).map BitVec.toNat =
    (List.range (b.length / 2)).map fun k => (byteAt b (2 * k)).toNat + 256 * (byteAt b (2 * k + 1)).toNat) ∧
  (∀ b : List Byte, b.length % 2 = 1 →
    (frameWords .padZero b).drop (b.length / 2) = [(byteAt b (b.length - 1)).zeroExtend 16] ∧
    (frameWords .ignore b).drop (b.length / 2) = []) ∧
  (∀ (o : OddTail) (b : List Byte), b.length % 2 = 0 → (frameWords o b).length = b.length / 2)

/-- R102: folding until no carry is left equals `oc_add` once per word, and has the closed form of R102; by R106 it does
not depend on the order of the words. -/
def Obligations.OcSumEqualsRepeatedOcAdd : Prop :=
  (∀ (o : OddTail) (b : List Byte), ocSum o b = (frameWords o b).foldl ocAdd 0) ∧
  (∀ (o : OddTail) (b : List Byte), (ocSum o b).toNat =
    if wordSum (frameWords o b) = 0 then 0 else (wordSum (frameWords o b) - 1) % 0xFFFF + 1) ∧
  (∀ (o o' : OddTail) (b b' : List Byte), (frameWords o b).Perm (frameWords o' b') → ocSum o b = ocSum o' b')

/-- R106: `crc16_cps(b) = 0xFFFF` exactly when every word is 0, so the checksum of a CPS frame, whose word 0 is never 0,
is never 0xFFFF. -/
def Obligations.CpsFrameCrcIsNeverAllOnes : Prop :=
  (∀ (o : OddTail) (b : List Byte), crc16Cps o b = 0xFFFF ↔ ∀ w ∈ frameWords o b, w = 0) ∧
  (∀ (o : OddTail) (type : Byte) (rest : List Byte), crc16Cps o (0x7E :: type :: rest) ≠ 0xFFFF)

/-- R103: `crc16_cps(b) = 0xFFFF - ocsum(b)`, and for a frame, summing with bytes 10 and 11 at 0x00 gives the same as
leaving that word out. -/
def Obligations.ZeroedCrcSlotAddsNothing : Prop :=
  (∀ (o : OddTail) (b : List Byte), (crc16Cps o b).toNat = 0xFFFF - (ocSum o b).toNat) ∧
  (∀ (o : OddTail) (f : List Byte), 12 ≤ f.length →
    crc16Cps o (zeroSlot f 10) = crc16Cps o (f.take 10 ++ f.drop 12))

/-- R107: the words of a frame that carries its correct checksum, the checksum word included, sum to 0xFFFF; and the sum
identity differs from the exact comparison on one input only: sum 0xFFFF with declared checksum 0xFFFF. -/
def Obligations.SumIdentityAgainstExactCompare : Prop :=
  (∀ (o : OddTail) (f : List Byte), 12 ≤ f.length → rdLE16 f 10 = crc16Cps o (zeroSlot f 10) → ocSum o f = 0xFFFF) ∧
  (∀ (o : OddTail) (b : List Byte), ocAdd (ocSum o b) (crc16Cps o b) = 0xFFFF) ∧
  (∀ (o : OddTail) (b : List Byte) (declared : Half),
    (ocAdd (ocSum o b) declared = 0xFFFF ∧ declared ≠ crc16Cps o b) ↔ (ocSum o b = 0xFFFF ∧ declared = 0xFFFF))

/-- R113: whatever the state, issuing CRC_CLEAR, then CRC_WORD for each word of `b` in any order, then CRC_BYTE for a
final odd byte under PAD_ZERO, makes CRC_OUT equal `crc16_cps(b)`, and changes nothing but ACC and ERR. (The
commands as CMD writes in `inputs`: log entry 1.) -/
def Obligations.StreamingEqualsFrameCrc : Prop :=
  ∀ (o : OddTail) (b : List Byte) (hi : Byte) (ws : List Half) (rest : List Input) (s : State),
    ws.Perm (pairWords b) →
    runSteps (1 + ws.length + (tailCommands o b hi).length)
      { s with inputs := commandInputs (.crcClear 0 :: ws.map .crcWord ++ tailCommands o b hi) ++ rest } =
        .next { s with acc := ocSum o b, err := .none, inputs := rest } ∧
    regRead { s with acc := ocSum o b, err := .none, inputs := rest } 0x10 = (0 : Half) ++ crc16Cps o b

/-- R104: the streaming commands act the same in every mode, and ENCODE and DECODE neither read nor write CRC_ACC. -/
def Obligations.TwoCrcPathsDoNotMeet : Prop :=
  (∀ (m : Mode) (arg : Half) (s : State),
    exec (.crcClear arg) { s with mode := m } = .next { s with mode := m, acc := 0, err := .none } ∧
    exec (.crcWord arg) { s with mode := m } = .next { s with mode := m, acc := ocAdd s.acc arg, err := .none } ∧
    exec (.crcByte arg) { s with mode := m } =
      .next { s with mode := m, acc := ocAdd s.acc ((arg.extractLsb' 0 8).zeroExtend 16), err := .none }) ∧
  (∀ (cfg : Config) (s : State) (x : Half),
    encodeFrame cfg { s with acc := x } = { encodeFrame cfg s with acc := x } ∧
    decodeFrame cfg { s with acc := x } = { decodeFrame cfg s with acc := x })

/-! ## ENCODE -/

/-- R131: with `n = HDR_LEN(MODE) + PLEN`, ENCODE raises LEN_OVERFLOW and changes nothing else if `n > 0xFFFF` or
`n > BUF_BYTES`, and otherwise sets FLEN to n. -/
def Obligations.EncodeChecksTheLength : Prop :=
  (∀ (arg : Half) (s : State), exec (.encode arg) s = .next (encodeFrame Config.here s)) ∧
  (∀ (cfg : Config) (s : State),
    (0xFFFF < hdrLen s.mode + s.txPlen.toNat ∨ cfg.bufBytes < hdrLen s.mode + s.txPlen.toNat →
      encodeFrame cfg s = { s with err := .lenOverflow }) ∧
    (hdrLen s.mode + s.txPlen.toNat ≤ 0xFFFF ∧ hdrLen s.mode + s.txPlen.toNat ≤ cfg.bufBytes →
      (encodeFrame cfg s).flen.toNat = hdrLen s.mode + s.txPlen.toNat ∧ (encodeFrame cfg s).err = .none))

/-- R132: the header of a CPS or no-CRC frame byte by byte, its checksum over the finished frame with bytes 10 and 11 at
0x00, and nothing else changed: no register but FLEN and ERR, no byte of FB from HDR_LEN on. (The draw count is the
model's own; `FrameCommandsArePureOnWrittenBytes` says when it stays.) -/
def Obligations.EncodeWritesTheCpsAndNocrcHeader : Prop :=
  ∀ (arg : Half) (s : State) (n : Half), s.mode ≠ .fw →
    n.toNat = hdrLen s.mode + s.txPlen.toNat → n.toNat ≤ Config.here.bufBytes →
    ∃ fb' d, exec (.encode arg) s = .next { s with fb := fb', flen := n, err := .none, draws := d } ∧
      Memory.get? fb' 0 = some 0x7E ∧ Memory.get? fb' 1 = some s.txType ∧ Memory.get? fb' 2 = some 0x00 ∧
      Memory.get? fb' 3 = some s.txFlags ∧ Memory.get? fb' 4 = some s.txSrc ∧ Memory.get? fb' 5 = some s.txDest ∧
      Memory.get? fb' 6 = some (s.txSeq.extractLsb' 8 8) ∧ Memory.get? fb' 7 = some (s.txSeq.extractLsb' 0 8) ∧
      Memory.get? fb' 8 = some (n.extractLsb' 8 8) ∧ Memory.get? fb' 9 = some (n.extractLsb' 0 8) ∧
      (s.mode = .cps →
        let c := crc16Cps Config.here.oddTail
          ([0x7E, s.txType, 0x00, s.txFlags, s.txSrc, s.txDest, s.txSeq.extractLsb' 8 8, s.txSeq.extractLsb' 0 8,
            n.extractLsb' 8 8, n.extractLsb' 0 8, 0x00, 0x00] ++ memRead s 12 s.txPlen.toNat)
        Memory.get? fb' 10 = some (c.extractLsb' 0 8) ∧ Memory.get? fb' 11 = some (c.extractLsb' 8 8)) ∧
      (∀ a, hdrLen s.mode ≤ a → Memory.get? fb' a = Memory.get? s.fb a)

/-- R133: the header of a firmware frame byte by byte, with `L = PLEN + FW_LEN_BASE` and FW_CRC16 of the finished frame
with bytes 2 and 3 at 0x00, and nothing else changed: no register but FLEN and ERR, no byte of FB from 4 on. `L` always
fits in 16 bits. (The draw count is the model's own.) -/
def Obligations.EncodeWritesTheFirmwareHeader : Prop :=
  ∀ (arg : Half) (s : State) (n : Half), s.mode = .fw →
    n.toNat = 4 + s.txPlen.toNat → n.toNat ≤ Config.here.bufBytes →
    ∃ (fb' : Memory) (d : Nat) (L : Half), L.toNat = s.txPlen.toNat + Config.here.fwLenBase ∧
      exec (.encode arg) s = .next { s with fb := fb', flen := n, err := .none, draws := d } ∧
      (let c := Config.here.fwCrc16 ([L.extractLsb' 0 8, L.extractLsb' 8 8, 0x00, 0x00] ++ memRead s 4 s.txPlen.toNat)
       Memory.get? fb' 0 = some (L.extractLsb' 0 8) ∧ Memory.get? fb' 1 = some (L.extractLsb' 8 8) ∧
       Memory.get? fb' 2 = some (c.extractLsb' 0 8) ∧ Memory.get? fb' 3 = some (c.extractLsb' 8 8)) ∧
      (∀ a, 4 ≤ a → Memory.get? fb' a = Memory.get? s.fb a)

/-- R53, D40: for every parameter value ENCODE changes FLEN, ERR, the model's draw count and FB at most; the addresses
it stores to are those below HDR_LEN(MODE), and it stores to none when it raises. -/
def Obligations.EncodeFrameCondition : Prop :=
  ∀ (cfg : Config) (s : State),
    (∃ fb' n e d, encodeFrame cfg s = { s with fb := fb', flen := n, err := e, draws := d }) ∧
    (∀ a, hdrLen s.mode ≤ a → Memory.get? (encodeFrame cfg s).fb a = Memory.get? s.fb a) ∧
    ((encodeFrame cfg s).err = .lenOverflow → (encodeFrame cfg s).fb = s.fb)

/-- R57, R130: ENCODE run twice on the same inputs gives the same frame and the same state, where every payload byte has
been written. -/
def Obligations.EncodeTwiceIsEncodeOnce : Prop :=
  ∀ (cfg : Config) (s : State), allWritten s.fb (hdrLen s.mode) s.txPlen.toNat = true →
    encodeFrame cfg (encodeFrame cfg s) = encodeFrame cfg s

/-- R79: a frame ENCODE builds over a written payload meets the wire invariants: start marker, declared length, byte 2,
and a declared checksum that is the checksum of the frame with its slot zeroed. -/
def Obligations.EncodedFramesMeetTheWireInvariants : Prop :=
  ∀ (cfg : Config) (s : State), (encodeFrame cfg s).err = .none →
    allWritten s.fb (hdrLen s.mode) s.txPlen.toNat = true →
    let f := rxFrame (encodeFrame cfg s)
    f.length = hdrLen s.mode + s.txPlen.toNat ∧
    (s.mode ≠ .fw → byteAt f 0 = 0x7E ∧ byteAt f 2 = 0x00 ∧ (rdBE16 f 8).toNat = f.length) ∧
    (s.mode = .fw → (rdLE16 f 0).toNat = f.length - 4 + cfg.fwLenBase ∧ rdLE16 f 2 = cfg.fwCrc16 (zeroSlot f 2)) ∧
    (s.mode = .cps → rdLE16 f 10 = crc16Cps cfg.oddTail (zeroSlot f 10))

/-! ## DECODE -/

/-- R135, R136, R141: DECODE's hard errors in their order. FLEN beyond BUF_BYTES is LEN_OVERFLOW; then an empty frame or one
that does not begin with 0x7E is BAD_MARKER (CPS and no-CRC); then a frame shorter than its header or with a wrong
declared length is LENGTH_MISMATCH. Each clears RXV and CRCM, keeps every other register and FB.
(The draw count is the model's own, log entry 3.) -/
def Obligations.DecodeRejectsInOrder : Prop :=
  (∀ (arg : Half) (s : State), exec (.decode arg) s = .next (decodeFrame Config.here s)) ∧
  (∀ (cfg : Config) (s : State), cfg.bufBytes < s.flen.toNat →
    decodeFrame cfg s = { s with err := .lenOverflow, rxv := false, crcm := false }) ∧
  (∀ (cfg : Config) (s : State), s.flen.toNat ≤ cfg.bufBytes → ¬ MarkerFits s →
    ∃ d, decodeFrame cfg s = { s with err := .badMarker, rxv := false, crcm := false, draws := d }) ∧
  (∀ (cfg : Config) (s : State), s.flen.toNat ≤ cfg.bufBytes → MarkerFits s →
    s.flen.toNat < hdrLen s.mode ∨ ¬ LengthFits cfg s →
    ∃ d, decodeFrame cfg s = { s with err := .lengthMismatch, rxv := false, crcm := false, draws := d })

/-- R138: DECODE of an accepted CPS or no-CRC frame: the RX registers take the header fields, POFF = HDR_LEN,
PLEN = n - HDR_LEN, and the declared and recomputed checksums (both 0 in no-CRC); RXV = 1, CRCM and ERR say whether they
differ. Everything else is unchanged, FB among it. (The draw count is the model's own;
`FrameCommandsArePureOnWrittenBytes` says when it stays.) -/
def Obligations.DecodeCapturesCpsAndNocrcFields : Prop :=
  ∀ (arg : Half) (s : State), s.mode ≠ .fw → s.flen.toNat ≤ Config.here.bufBytes → hdrLen s.mode ≤ s.flen.toNat →
    MarkerFits s → LengthFits Config.here s →
    let f := rxFrame s
    let declared := if s.mode = .cps then rdLE16 f 10 else 0
    let computed := if s.mode = .cps then crc16Cps Config.here.oddTail (f.take 10 ++ [0x00, 0x00] ++ f.drop 12) else 0
    ∃ d, exec (.decode arg) s = .next
      { s with
        rxType := byteAt f 1, rxFlags := byteAt f 3, rxSrc := byteAt f 4, rxDest := byteAt f 5
        rxSeq := rdBE16 f 6, rxDlen := s.flen, rxRsvd := byteAt f 2
        rxPoff := BitVec.ofNat 8 (hdrLen s.mode), rxPlen := s.flen - BitVec.ofNat 16 (hdrLen s.mode)
        rxDecl := declared, rxCalc := computed, rxv := true, crcm := declared != computed
        err := if declared = computed then .none else .crc16Mismatch, draws := d }

/-- R139: DECODE of an accepted firmware frame: RX_HDR, SEQ and RSVD become 0, DLEN is the declared length, POFF = 4,
PLEN = n - 4, and the checksums are the declared one and FW_CRC16 of the frame with bytes 2 and 3 zeroed. Everything
else is unchanged, FB among it. (The draw count is the model's own.) -/
def Obligations.DecodeCapturesFirmwareFields : Prop :=
  ∀ (arg : Half) (s : State), s.mode = .fw → s.flen.toNat ≤ Config.here.bufBytes → 4 ≤ s.flen.toNat →
    LengthFits Config.here s →
    let f := rxFrame s
    let declared := rdLE16 f 2
    let computed := Config.here.fwCrc16 (f.take 2 ++ [0x00, 0x00] ++ f.drop 4)
    ∃ d, exec (.decode arg) s = .next
      { s with
        rxType := 0, rxFlags := 0, rxSrc := 0, rxDest := 0, rxSeq := 0, rxDlen := rdLE16 f 0, rxRsvd := 0
        rxPoff := 4, rxPlen := s.flen - 4
        rxDecl := declared, rxCalc := computed, rxv := true, crcm := declared != computed
        err := if declared = computed then .none else .crc16Mismatch, draws := d }

/-- R140, R181: the checksum check is soft: a frame that passes the marker and length checks is accepted whatever its
checksum, and CRC16_MISMATCH, CRCM = 1 and unequal RX_CRC halves say the same thing. -/
def Obligations.CrcMismatchStillAcceptsTheFrame : Prop :=
  ∀ (cfg : Config) (s : State), s.flen.toNat ≤ cfg.bufBytes → MarkerFits s → hdrLen s.mode ≤ s.flen.toNat →
    LengthFits cfg s →
    let t := decodeFrame cfg s
    t.rxv = true ∧ t.rxDecl = declaredCrc s.mode (rxFrame s) ∧ t.rxCalc = computedCrc cfg s.mode (rxFrame s) ∧
    t.rxDlen.toNat = t.rxPlen.toNat + (if s.mode = .fw then cfg.fwLenBase else hdrLen s.mode) ∧
    (t.rxDecl ≠ t.rxCalc → t.crcm = true ∧ t.err = .crc16Mismatch) ∧
    (t.rxDecl = t.rxCalc → t.crcm = false ∧ t.err = .none)

/-- R134, R53: for every parameter value DECODE changes ERR, RXV, CRCM, the RX registers and the model's draw count at
most; it writes no byte of FB, no TX register, MODE, ACC or FLEN. -/
def Obligations.DecodeFrameCondition : Prop :=
  ∀ (cfg : Config) (s : State), ∃ d,
    let t := decodeFrame cfg s
    t = { s with
      err := t.err, rxv := t.rxv, crcm := t.crcm
      rxType := t.rxType, rxFlags := t.rxFlags, rxSrc := t.rxSrc, rxDest := t.rxDest
      rxSeq := t.rxSeq, rxDlen := t.rxDlen, rxDecl := t.rxDecl, rxCalc := t.rxCalc
      rxRsvd := t.rxRsvd, rxPoff := t.rxPoff, rxPlen := t.rxPlen, draws := d }

/-- R57: DECODE repeated with unchanged inputs gives the same state, where every byte of the frame has been written. -/
def Obligations.DecodeTwiceIsDecodeOnce : Prop :=
  ∀ (cfg : Config) (s : State), allWritten s.fb 0 s.flen.toNat = true →
    decodeFrame cfg (decodeFrame cfg s) = decodeFrame cfg s

/-- R53: DECODE looks at no byte of FB at or beyond FLEN, and ENCODE's frame does not depend on any byte outside
`FB[HDR_LEN .. HDR_LEN + PLEN)`. -/
def Obligations.CommandsLookOnlyAtTheirFrame : Prop :=
  (∀ (cfg : Config) (s : State) (m : Memory),
    (∀ a, a < s.flen.toNat → Memory.get? m a = Memory.get? s.fb a) →
    decodeFrame cfg { s with fb := m } = { decodeFrame cfg s with fb := m }) ∧
  (∀ (cfg : Config) (s : State) (m : Memory),
    (∀ a, hdrLen s.mode ≤ a → a < hdrLen s.mode + s.txPlen.toNat → Memory.get? m a = Memory.get? s.fb a) →
    { encodeFrame cfg { s with fb := m } with fb := s.fb } = { encodeFrame cfg s with fb := s.fb } ∧
    ((encodeFrame cfg s).err = .none → ∀ a, a < hdrLen s.mode →
      Memory.get? (encodeFrame cfg { s with fb := m }).fb a = Memory.get? (encodeFrame cfg s).fb a))

/-- R144: over written bytes ENCODE and DECODE are functions of the bytes and registers alone: the free values do not
enter, and no draw is used. -/
def Obligations.FrameCommandsArePureOnWrittenBytes : Prop :=
  (∀ (cfg : Config) (s : State) (d : Nat), allWritten s.fb (hdrLen s.mode) s.txPlen.toNat = true →
    encodeFrame cfg { s with draws := d } = { encodeFrame cfg s with draws := d }) ∧
  (∀ (cfg : Config) (s : State) (d : Nat), allWritten s.fb 0 s.flen.toNat = true →
    decodeFrame cfg { s with draws := d } = { decodeFrame cfg s with draws := d })

/-! ## The two frame commands together -/

/-- R142: after a successful ENCODE over a written payload, a DECODE in any later state in which FB, FLEN and MODE are as
the ENCODE left them accepts the frame with matching checksums and gives the header fields back. -/
def Obligations.DecodeOfEncodeRoundTrip : Prop :=
  ∀ (cfg : Config) (s u : State), (encodeFrame cfg s).err = .none →
    allWritten s.fb (hdrLen s.mode) s.txPlen.toNat = true →
    u.fb = (encodeFrame cfg s).fb → u.flen = (encodeFrame cfg s).flen → u.mode = s.mode →
    let t := decodeFrame cfg u
    t.err = .none ∧ t.rxv = true ∧ t.crcm = false ∧
    (s.mode ≠ .fw → t.rxType = s.txType ∧ t.rxFlags = s.txFlags ∧ t.rxSrc = s.txSrc ∧ t.rxDest = s.txDest ∧
      t.rxSeq = s.txSeq) ∧
    t.rxPlen = s.txPlen ∧ t.rxPoff.toNat = hdrLen s.mode ∧ t.rxDecl = t.rxCalc ∧
    (∀ k, k < s.txPlen.toNat →
      Memory.get? t.fb (t.rxPoff.toNat + k) = Memory.get? s.fb (hdrLen s.mode + k))

/-- R143: one byte of a correct CPS frame changed, under PAD_ZERO. Byte 0 gives BAD_MARKER, bytes 8 and 9 give
LENGTH_MISMATCH, every other byte of the frame gives CRC16_MISMATCH. Under IGNORE the last byte of an odd-length frame
changes without notice. -/
def Obligations.SingleByteCorruptionIsReported : Prop :=
  (∀ (cfg : Config) (s : State) (j : Nat) (b : Byte), cfg.oddTail = .padZero → s.mode = .cps →
    allWritten s.fb 0 s.flen.toNat = true → (decodeFrame cfg s).err = .none →
    j < s.flen.toNat → Memory.get? s.fb j ≠ some b →
    let u := decodeFrame cfg { s with fb := Memory.set s.fb j b }
    (j = 0 → u.err = .badMarker) ∧
    (j = 8 ∨ j = 9 → u.err = .lengthMismatch) ∧
    (j ≠ 0 → j ≠ 8 → j ≠ 9 → u.err = .crc16Mismatch ∧ u.rxv = true ∧ u.crcm = true)) ∧
  (∀ (cfg : Config) (s : State) (b : Byte), cfg.oddTail = .ignore → s.mode = .cps →
    allWritten s.fb 0 s.flen.toNat = true → (decodeFrame cfg s).err = .none →
    12 < s.flen.toNat → s.flen.toNat % 2 = 1 →
    (decodeFrame cfg { s with fb := Memory.set s.fb (s.flen.toNat - 1) b }).err = .none)

/-! ## Registers and the buffer space -/

/-- R22: CTRL. In every state it reads the MODE field, its reserved bits 0; a write whose bits [1:0] are 3 leaves MODE, any
other stores it; nothing else changes. (Accesses as inputs: log entry 1.) -/
def Obligations.CtrlStoresLegalModesOnly : Prop :=
  (∀ s : State, regRead s 0x00 = (match s.mode with | .cps => 0 | .fw => 1 | .nocrc => 2)) ∧
  (∀ (s : State) (v : Word) (rest : List Input), s.inputs = .host (.regWrite 0x00 v) :: rest →
    (v.extractLsb' 0 2 = 3 → step s = .next { s with inputs := rest }) ∧
    (v.extractLsb' 0 2 ≠ 3 → ∃ m, step s = .next { s with inputs := rest, mode := m } ∧
      regRead { s with inputs := rest, mode := m } 0x00 = v &&& 0x00000003))

/-- R24, R180: STATUS: ERR in bits 3:0 with its numeric code, RXV in bit 8, CRCM in bit 9, all other bits 0; host
writes to it change nothing. (Accesses as inputs: log entry 1.) -/
def Obligations.StatusWordLayout : Prop :=
  (∀ s : State,
    (regRead s 0x08).extractLsb' 0 4 = (match s.err with
      | .none => 0 | .badMarker => 1 | .lengthMismatch => 2 | .crc16Mismatch => 3 | .lenOverflow => 4
      | .illegalCmd => 5) ∧
    (regRead s 0x08).extractLsb' 4 4 = 0 ∧ (regRead s 0x08).getLsbD 8 = s.rxv ∧
    (regRead s 0x08).getLsbD 9 = s.crcm ∧ (regRead s 0x08).extractLsb' 10 22 = 0) ∧
  (∀ (s : State) (v : Word) (rest : List Input), s.inputs = .host (.regWrite 0x08 v) :: rest →
    step s = .next { s with inputs := rest })

/-- R25, R26: a host write to CRC_ACC stores bits [15:0] in ACC and changes nothing else; CRC_ACC reads ACC and CRC_OUT
reads its complement, upper halves 0; writes to CRC_OUT change nothing; CRC_OUT reads 0xFFFF at reset.
(Accesses as inputs: log entry 1.) -/
def Obligations.CrcAccAndCrcOut : Prop :=
  (∀ (s : State) (v : Word) (rest : List Input), s.inputs = .host (.regWrite 0x0C v) :: rest →
    step s = .next { s with inputs := rest, acc := v.extractLsb' 0 16 }) ∧
  (∀ (s : State) (v : Word) (rest : List Input), s.inputs = .host (.regWrite 0x10 v) :: rest →
    step s = .next { s with inputs := rest }) ∧
  (∀ s : State, (regRead s 0x0C).toNat = s.acc.toNat ∧ (regRead s 0x10).toNat = 0xFFFF - s.acc.toNat) ∧
  State.reset.acc = 0 ∧ regRead State.reset 0x10 = 0x0000FFFF

/-- R27, R28, R29: host writes to FLEN, TX_HDR and TX_SEQ_PLEN store their fields and change nothing else, and what was
written reads back (FLEN without its reserved half). (Accesses as inputs: log entry 1.) -/
def Obligations.LengthAndTransmitRegistersStore : Prop :=
  (∀ (s : State) (v : Word) (rest : List Input), s.inputs = .host (.regWrite 0x14 v) :: rest →
    ∃ t, step s = .next t ∧ t = { s with inputs := rest, flen := v.extractLsb' 0 16 } ∧
      regRead t 0x14 = v &&& 0x0000FFFF) ∧
  (∀ (s : State) (v : Word) (rest : List Input), s.inputs = .host (.regWrite 0x18 v) :: rest →
    ∃ t, step s = .next t ∧
      t = { s with
        inputs := rest, txType := v.extractLsb' 0 8, txFlags := v.extractLsb' 8 8
        txSrc := v.extractLsb' 16 8, txDest := v.extractLsb' 24 8 } ∧
      regRead t 0x18 = v) ∧
  (∀ (s : State) (v : Word) (rest : List Input), s.inputs = .host (.regWrite 0x1C v) :: rest →
    ∃ t, step s = .next t ∧
      t = { s with inputs := rest, txSeq := v.extractLsb' 0 16, txPlen := v.extractLsb' 16 16 } ∧
      regRead t 0x1C = v)

/-- R30 to R33: the fields of the four RX registers at their bits, and host writes to them change nothing.
(Accesses as inputs: log entry 1.) -/
def Obligations.ReceiveRegistersAreReadOnly : Prop :=
  (∀ s : State,
    (regRead s 0x20).extractLsb' 0 8 = s.rxType ∧ (regRead s 0x20).extractLsb' 8 8 = s.rxFlags ∧
    (regRead s 0x20).extractLsb' 16 8 = s.rxSrc ∧ (regRead s 0x20).extractLsb' 24 8 = s.rxDest ∧
    (regRead s 0x24).extractLsb' 0 16 = s.rxSeq ∧ (regRead s 0x24).extractLsb' 16 16 = s.rxDlen ∧
    (regRead s 0x28).extractLsb' 0 16 = s.rxDecl ∧ (regRead s 0x28).extractLsb' 16 16 = s.rxCalc ∧
    (regRead s 0x2C).extractLsb' 0 8 = s.rxRsvd ∧ (regRead s 0x2C).extractLsb' 8 8 = s.rxPoff ∧
    (regRead s 0x2C).extractLsb' 16 16 = s.rxPlen) ∧
  (∀ (s : State) (off : Nat) (v : Word) (rest : List Input), off = 0x20 ∨ off = 0x24 ∨ off = 0x28 ∨ off = 0x2C →
    s.inputs = .host (.regWrite off v) :: rest → step s = .next { s with inputs := rest })

/-- R55: a register is mapped at exactly the multiples of 4 from 0x00 to 0x2C; at any other offset a read returns 0 and
a write changes nothing. The reading is recorded (log entry 1). -/
def Obligations.UnmappedOffsetsReadZeroIgnoreWrites : Prop :=
  (∀ off : Nat, (regAt off).isSome = true ↔ off % 4 = 0 ∧ off ≤ 0x2C) ∧
  (∀ (s : State) (off : Nat) (v : Word) (rest : List Input), ¬ (off % 4 = 0 ∧ off ≤ 0x2C) →
    (s.inputs = .host (.regRead off) :: rest →
      step s = .next { s with inputs := rest, recorded := s.recorded ++ [.reg off 0] }) ∧
    (s.inputs = .host (.regWrite off v) :: rest → step s = .next { s with inputs := rest }))

/-- R56: a buffer read at or beyond BUF_BYTES returns 0 and changes nothing, a buffer write there changes nothing.
The reading is recorded (log entry 1). -/
def Obligations.BufferBeyondTheEndReadsZero : Prop :=
  ∀ (s : State) (i : Nat) (b : Byte) (rest : List Input), Config.here.bufBytes ≤ i →
    (s.inputs = .host (.bufRead i) :: rest →
      step s = .next { s with inputs := rest, recorded := s.recorded ++ [.buf i 0] }) ∧
    (s.inputs = .host (.bufWrite i b) :: rest → step s = .next { s with inputs := rest })

/-- R51, R57: a buffer write below BUF_BYTES stores exactly one byte and changes no register; a written byte reads back and
the read changes nothing. The reading is recorded (log entry 1). -/
def Obligations.BufferWriteThenRead : Prop :=
  (∀ (s : State) (i : Nat) (b : Byte) (rest : List Input), i < Config.here.bufBytes →
    s.inputs = .host (.bufWrite i b) :: rest →
    ∃ fb', step s = .next { s with inputs := rest, fb := fb' } ∧ Memory.get? fb' i = some b ∧
      ∀ a, a ≠ i → Memory.get? fb' a = Memory.get? s.fb a) ∧
  (∀ (s : State) (i : Nat) (b : Byte) (rest : List Input), i < Config.here.bufBytes →
    Memory.get? s.fb i = some b → s.inputs = .host (.bufRead i) :: rest →
    step s = .next { s with inputs := rest, recorded := s.recorded ++ [.buf i b] })

/-- R201, U1: every byte is UNWRITTEN at reset; reading an UNWRITTEN byte never faults, returns the free value of that
draw, leaves the byte UNWRITTEN and changes nothing but the draw count, which is the model's (log entry 3). -/
def Obligations.UnwrittenByteReadsAFreeValue : Prop :=
  (∀ i : Nat, Memory.get? State.reset.fb i = none) ∧
  (∀ (s : State) (i : Nat) (rest : List Input), i < Config.here.bufBytes → Memory.get? s.fb i = none →
    s.inputs = .host (.bufRead i) :: rest →
    step s = .next
      { s with
        inputs := rest, draws := s.draws + 1
        recorded := s.recorded ++ [.buf i (Config.freeByte s.draws i)] })

/-- R200: the register values right after reset; a hardware reset gives them from any state, with every byte of FB
UNWRITTEN. That a reset is one of the machine's inputs is the model's choice (log entry 5). -/
def Obligations.ResetValues : Prop :=
  (∀ r : Reg, regRead State.reset (regOffset r) = if r = .crcOut then 0x0000FFFF else 0) ∧
  State.reset.mode = .cps ∧ State.reset.err = .none ∧ (∀ i, Memory.get? State.reset.fb i = none) ∧
  (∀ (s : State) (rest : List Input), s.inputs = .hardReset :: rest →
    ∃ t, step s = .next t ∧ (∀ off, regRead t off = regRead State.reset off) ∧ ∀ i, Memory.get? t.fb i = none)

/-! ## Rules of the whole machine -/

/-- R53, R59: which step can change which byte of FB: a buffer write to that byte, an ENCODE that does not raise for a
byte below HDR_LEN(MODE), a hardware reset, and nothing else. -/
def Obligations.WhatCanChangeABufferByte : Prop :=
  ∀ (s t : State) (a : Nat), step s = .next t → Memory.get? t.fb a ≠ Memory.get? s.fb a →
    (a < Config.here.bufBytes ∧ ∃ b rest, s.inputs = .host (.bufWrite a b) :: rest) ∨
    (a < hdrLen s.mode ∧ t.err = .none ∧ NextCommand s (fun i => ∃ arg, i = .encode arg)) ∨
    NextIsReset s

/-- R24, R37 and spec/10_state.md section 6: RXV, CRCM and the RX registers change only by DECODE, SRST or a hardware
reset. -/
def Obligations.WhatCanChangeTheReceiveRegisters : Prop :=
  ∀ s t : State, step s = .next t →
    SameRx s t ∨ NextCommand s (fun i => ∃ arg, i = .decode arg ∨ i = .srst arg) ∨ NextIsReset s

/-- R22, R28, R29: MODE changes only by a host write to CTRL, the fields of TX_HDR only by one to TX_HDR, SEQ and PLEN only
by one to TX_SEQ_PLEN, or each by SRST or a hardware reset; so the block never changes SEQ of itself. (Accesses and a
reset as inputs: log entries 1 and 5.) -/
def Obligations.WhatCanChangeModeAndTransmitRegisters : Prop :=
  ∀ s t : State, step s = .next t →
    (t.mode = s.mode ∨ NextWrites s 0x00 ∨ NextCommand s (fun i => ∃ arg, i = .srst arg) ∨ NextIsReset s) ∧
    (SameTxHdr s t ∨ NextWrites s 0x18 ∨ NextCommand s (fun i => ∃ arg, i = .srst arg) ∨ NextIsReset s) ∧
    (SameTxSeqPlen s t ∨ NextWrites s 0x1C ∨ NextCommand s (fun i => ∃ arg, i = .srst arg) ∨ NextIsReset s)

/-- R25, R27: ACC changes only by the streaming commands, a host write to CRC_ACC, SRST or a reset; FLEN only by ENCODE,
a host write to FLEN, SRST or a reset; ERR only by a command or a reset. -/
def Obligations.WhatCanChangeAccFlenAndErr : Prop :=
  ∀ s t : State, step s = .next t →
    (t.acc = s.acc ∨ NextWrites s 0x0C ∨
      NextCommand s (fun i => ∃ arg, i = .crcClear arg ∨ i = .crcWord arg ∨ i = .crcByte arg ∨ i = .srst arg) ∨
      NextIsReset s) ∧
    (t.flen = s.flen ∨ NextWrites s 0x14 ∨ NextCommand s (fun i => ∃ arg, i = .encode arg ∨ i = .srst arg) ∨
      NextIsReset s) ∧
    (t.err = s.err ∨ NextWrites s 0x04 ∨ NextIsReset s)

/-- R57: a host read changes nothing of QFC but, where it reads an UNWRITTEN byte, the model's draw count (log
entry 3). The reading is recorded (log entry 1). -/
def Obligations.ReadsHaveNoSideEffects : Prop :=
  (∀ (s : State) (off : Nat) (rest : List Input), s.inputs = .host (.regRead off) :: rest →
    step s = .next { s with inputs := rest, recorded := s.recorded ++ [.reg off (regRead s off)] }) ∧
  (∀ (s : State) (i : Nat) (rest : List Input), s.inputs = .host (.bufRead i) :: rest →
    ∃ d b, step s = .next { s with inputs := rest, recorded := s.recorded ++ [.buf i b], draws := d } ∧
      (d ≠ s.draws → Memory.get? s.fb i = none))

/-- Two frame buffers in canonical form that agree at every index are the same data (log entry 10). -/
def Obligations.EqualBuffersAreEqualData : Prop :=
  ∀ m m' : Memory, Memory.wf m = true → Memory.wf m' = true → (∀ i, Memory.get? m i = Memory.get? m' i) → m = m'

/-- The invariant holds right after reset (R200, R201). -/
def Obligations.InvariantHoldsAtReset : Prop := ∀ cfg : Config, Inv cfg State.reset

/-- Every step from a state that meets the invariant ends in one that does: FB stays canonical and below BUF_BYTES,
CRCM = 1 implies RXV = 1 (R24), RXV = 1 means the RX registers describe an accepted frame whose payload lies in FB
(R33, R138, R139) and CRCM says whether its checksums differ (R140), and ERR agrees with the flags (R181). -/
def Obligations.InvariantIsKeptByEveryStep : Prop :=
  ∀ s t : State, Inv Config.here s → step s = .next t → Inv Config.here t
end

