-- ==== Sys2Proof/Laws/Checksum.lean ====
section
/-! SUPPORT. The checksum functions as natural-number arithmetic: what later proofs cite instead of unfolding them. -/

namespace Sys2Proof.Machine

open Sys2Proof

/-- `oc_add` narrows nothing: the folded sum fits in 16 bits (R100). -/
theorem ocAdd_toNat (a w : Half) :
    (ocAdd a w).toNat = (a.toNat + w.toNat) % 0x10000 + (a.toNat + w.toNat) / 0x10000 := by
  have ha := a.isLt
  have hw := w.isLt
  simp only [ocAdd, BitVec.toNat_ofNat]
  omega

@[simp] theorem frameWords_nil (o : OddTail) : frameWords o [] = [] := rfl

@[simp] theorem frameWords_cons_cons (o : OddTail) (lo hi : Byte) (rest : List Byte) :
    frameWords o (lo :: hi :: rest) = (hi ++ lo) :: frameWords o rest := rfl

theorem frameWords_singleton_padZero (b : Byte) : frameWords .padZero [b] = [(0x00 : Byte) ++ b] := rfl

theorem frameWords_singleton_ignore (b : Byte) : frameWords .ignore [b] = [] := rfl

/-- A word from its bytes: the byte at the even offset is the low byte (R101). -/
theorem word_toNat (hi lo : Byte) : (hi ++ lo : Half).toNat = hi.toNat * 256 + lo.toNat := by
  have := lo.isLt
  simp only [BitVec.toNat_append]
  rw [← Nat.shiftLeft_add_eq_or_of_lt this, Nat.shiftLeft_eq]

@[simp] theorem wordSum_nil : wordSum [] = 0 := rfl

@[simp] theorem wordSum_cons (w : Half) (ws : List Half) : wordSum (w :: ws) = w.toNat + wordSum ws := rfl

theorem wordSum_append (ws ws' : List Half) : wordSum (ws ++ ws') = wordSum ws + wordSum ws' := by
  simp [wordSum]

end Sys2Proof.Machine
end

