-- ==== Sys2Proof/Laws/Memory.lean ====
section
/-! SUPPORT. The laws of the frame buffer as data: read after write, and that every operation keeps the canonical
form and the bound. -/

namespace Sys2Proof.Machine

open Sys2Proof

namespace Memory

@[simp] theorem get?_nil (i : Nat) : get? [] i = none := rfl

@[simp] theorem get?_set_self (m : Memory) (i : Nat) (b : Byte) : get? (set m i b) i = some b := by
  induction m with
  | nil => simp [set, get?]
  | cons c m ih =>
    obtain ⟨a, c⟩ := c
    simp only [set]
    split
    · simp [get?]
    · split
      · simp [get?]
      · rw [get?, if_neg (by omega), ih]

theorem get?_set_of_ne (m : Memory) {i j : Nat} (b : Byte) (h : j ≠ i) : get? (set m i b) j = get? m j := by
  induction m with
  | nil => simp [set, get?, h.symm]
  | cons c m ih =>
    obtain ⟨a, c⟩ := c
    simp only [set]
    split
    · simp [get?, h.symm]
    · split
      · next h2 => simp [get?, h2 ▸ h.symm, h.symm]
      · simp only [get?, ih]

theorem get?_write_of_lt (m : Memory) (bs : List Byte) {i j : Nat} (h : j < i) :
    get? (write m i bs) j = get? m j := by
  induction bs generalizing m i with
  | nil => rfl
  | cons b bs ih => rw [write, ih _ (by omega), get?_set_of_ne _ _ (by omega)]

theorem get?_write_of_ge (m : Memory) (bs : List Byte) {i j : Nat} (h : i + bs.length ≤ j) :
    get? (write m i bs) j = get? m j := by
  induction bs generalizing m i with
  | nil => rfl
  | cons b bs ih =>
    simp only [List.length_cons] at h
    rw [write, ih _ (by omega), get?_set_of_ne _ _ (by omega)]

/-- A written byte list reads back. -/
theorem get?_write_of_mem (m : Memory) (bs : List Byte) (i k : Nat) (h : k < bs.length) :
    get? (write m i bs) (i + k) = some bs[k] := by
  induction bs generalizing m i k with
  | nil => simp at h
  | cons b bs ih =>
    rw [write]
    cases k with
    | zero => rw [get?_write_of_lt _ _ (by omega)]; simp
    | succ k =>
      have := ih (set m i b) (i + 1) k (by simpa using h)
      rw [show i + (k + 1) = i + 1 + k by omega, this]
      simp

/-- Setting an index makes the first entry at or beyond it the one set. -/
theorem find?_set_self (m : Memory) (i : Nat) (b : Byte) :
    (set m i b).find? (fun c => decide (i ≤ c.1)) = some (i, b) := by
  induction m with
  | nil => simp [set]
  | cons c m ih =>
    obtain ⟨a, c⟩ := c
    simp only [set]
    split
    · simp
    · split
      · simp
      · rw [List.find?_cons_of_neg (by simp; omega)]
        exact ih

/-- Setting another index keeps the first entry at or beyond `i`, where that entry is at `i`. -/
theorem find?_set_of_ne (m : Memory) {i j : Nat} (b c : Byte) (h : j ≠ i)
    (hi : m.find? (fun c => decide (i ≤ c.1)) = some (i, b)) :
    (set m j c).find? (fun c => decide (i ≤ c.1)) = some (i, b) := by
  induction m with
  | nil => simp at hi
  | cons d m ih =>
    obtain ⟨a, d⟩ := d
    rw [List.find?_cons] at hi
    by_cases hia : i ≤ a
    · simp only [hia, decide_true, Option.some.injEq, Prod.mk.injEq] at hi
      simp only [set]
      split
      · rw [List.find?_cons_of_neg (by simp; omega)]
        simp [hi]
      · rw [if_neg (by omega)]
        simp [hi]
    · simp only [hia, decide_false] at hi
      simp only [set]
      split
      · rw [List.find?_cons_of_neg (by simp; omega), List.find?_cons_of_neg (by simp; omega)]
        exact hi
      · split
        · rw [List.find?_cons_of_neg (by simp; omega)]
          exact hi
        · rw [List.find?_cons_of_neg (by simp; omega)]
          exact ih hi

/-- Writing the byte that an index holds already changes nothing. -/
theorem set_of_find? (m : Memory) (i : Nat) (b : Byte)
    (hi : m.find? (fun c => decide (i ≤ c.1)) = some (i, b)) : set m i b = m := by
  induction m with
  | nil => simp at hi
  | cons d m ih =>
    obtain ⟨a, d⟩ := d
    rw [List.find?_cons] at hi
    by_cases hia : i ≤ a
    · simp only [hia, decide_true, Option.some.injEq, Prod.mk.injEq] at hi
      simp [set, hi]
    · simp only [hia, decide_false] at hi
      simp only [set]
      rw [if_neg (by omega), if_neg (by omega), ih hi]

theorem find?_write_of_lt (m : Memory) (bs : List Byte) {i j : Nat} (b : Byte) (h : j < i)
    (hj : m.find? (fun c => decide (j ≤ c.1)) = some (j, b)) :
    (write m i bs).find? (fun c => decide (j ≤ c.1)) = some (j, b) := by
  induction bs generalizing m i with
  | nil => exact hj
  | cons c bs ih => exact ih _ (by omega) (find?_set_of_ne m b c (by omega) hj)

theorem find?_write_of_mem (m : Memory) (bs : List Byte) (i k : Nat) (h : k < bs.length) :
    (write m i bs).find? (fun c => decide (i + k ≤ c.1)) = some (i + k, bs[k]) := by
  induction bs generalizing m i k with
  | nil => simp at h
  | cons b bs ih =>
    rw [write]
    cases k with
    | zero => exact find?_write_of_lt _ _ _ (by omega) (find?_set_self m i b)
    | succ k =>
      have := ih (set m i b) (i + 1) k (by simpa using h)
      simpa [show i + (k + 1) = i + 1 + k by omega] using this

/-- Writing the bytes that are there already changes nothing. -/
theorem write_of_find? (m : Memory) (bs : List Byte) (i : Nat)
    (h : ∀ k (hk : k < bs.length), m.find? (fun c => decide (i + k ≤ c.1)) = some (i + k, bs[k])) :
    write m i bs = m := by
  induction bs generalizing i with
  | nil => rfl
  | cons b bs ih =>
    rw [write, set_of_find? m i b (h 0 (by simp))]
    refine ih (i + 1) fun k hk => ?_
    have := h (k + 1) (by simpa using hk)
    simpa [show i + (k + 1) = i + 1 + k by omega] using this

/-- Writing the same bytes twice is writing them once. -/
theorem write_write_self (m : Memory) (bs : List Byte) (i : Nat) : write (write m i bs) i bs = write m i bs :=
  write_of_find? _ _ _ fun k hk => find?_write_of_mem m bs i k hk

theorem mem_set {m : Memory} {i : Nat} {b : Byte} {c : Host.Cell} (h : c ∈ set m i b) : c = (i, b) ∨ c ∈ m := by
  induction m with
  | nil => simpa [set] using h
  | cons d m ih =>
    obtain ⟨a, d⟩ := d
    simp only [set] at h
    split at h
    · simpa using h
    · split at h
      · rcases List.mem_cons.1 h with h | h
        · exact .inl h
        · exact .inr (List.mem_cons_of_mem _ h)
      · rcases List.mem_cons.1 h with h | h
        · exact .inr (h ▸ List.mem_cons_self)
        · exact (ih h).imp id (List.mem_cons_of_mem _)

/-- Writing one byte keeps the canonical form. -/
theorem wf_set (m : Memory) (i : Nat) (b : Byte) (h : wf m = true) : wf (set m i b) = true := by
  induction m with
  | nil => rfl
  | cons c m ih =>
    obtain ⟨a, c⟩ := c
    simp only [wf, Bool.and_eq_true, List.all_eq_true, decide_eq_true_eq] at h
    simp only [set]
    split
    · next hlt =>
      simp only [wf, Bool.and_eq_true, List.all_eq_true, decide_eq_true_eq, List.mem_cons]
      refine ⟨?_, h⟩
      rintro x (rfl | hx)
      · exact hlt
      · exact lt_trans hlt (h.1 x hx)
    · split
      · next heq =>
        simp only [wf, Bool.and_eq_true, List.all_eq_true, decide_eq_true_eq]
        exact heq ▸ h
      · simp only [wf, Bool.and_eq_true, List.all_eq_true, decide_eq_true_eq]
        refine ⟨fun x hx => ?_, ih h.2⟩
        rcases mem_set hx with rfl | hx
        · show a < i; omega
        · exact h.1 x hx

/-- Writing a byte list keeps the canonical form. -/
theorem wf_write (m : Memory) (i : Nat) (bs : List Byte) (h : wf m = true) : wf (write m i bs) = true := by
  induction bs generalizing m i with
  | nil => exact h
  | cons b bs ih => exact ih _ _ (wf_set m i b h)

/-- Writing one byte below a bound keeps the bound. -/
theorem below_set (n : Nat) (m : Memory) (i : Nat) (b : Byte) (hi : i < n) (h : below n m = true) :
    below n (set m i b) = true := by
  simp only [below, List.all_eq_true, decide_eq_true_eq] at *
  intro c hc
  rcases mem_set hc with rfl | hc
  · exact hi
  · exact h c hc

/-- Writing a byte list below a bound keeps the bound. -/
theorem below_write (n : Nat) (m : Memory) (i : Nat) (bs : List Byte) (hi : i + bs.length ≤ n)
    (h : below n m = true) : below n (write m i bs) = true := by
  induction bs generalizing m i with
  | nil => exact h
  | cons b bs ih =>
    simp only [List.length_cons] at hi
    exact ih _ _ (by omega) (below_set n m i b (by omega) h)

end Memory

/-! ## Reading FB -/

theorem allWritten_iff (m : Memory) (i n : Nat) :
    allWritten m i n = true ↔ ∀ k, i ≤ k → k < i + n → (Memory.get? m k).isSome = true := by
  simp [allWritten, List.mem_range'_1]

/-- A written byte reads as what was written. -/
theorem readByte_of_get? (s : State) (i : Nat) (b : Byte) (h : Memory.get? s.fb i = some b) : readByte s i = b := by
  simp [readByte, h]

@[simp] theorem memRead_length (s : State) (i n : Nat) : (memRead s i n).length = n := by simp [memRead]

theorem memRead_getElem (s : State) (i n k : Nat) (h : k < (memRead s i n).length) :
    (memRead s i n)[k] = readByte s (i + k) := by
  simp [memRead, List.getElem_range']

theorem byteAt_memRead (s : State) (i n k : Nat) (h : k < n) : byteAt (memRead s i n) k = readByte s (i + k) := by
  have hk : k < (memRead s i n).length := by simpa using h
  rw [byteAt, List.getD_eq_getElem _ _ hk, memRead_getElem]

/-- `memRead` depends on FB, on the draw and on nothing else. -/
theorem memRead_congr (s t : State) (i n : Nat) (hd : s.draws = t.draws)
    (h : ∀ k, i ≤ k → k < i + n → Memory.get? s.fb k = Memory.get? t.fb k) : memRead s i n = memRead t i n := by
  refine List.map_congr_left fun k hk => ?_
  rw [List.mem_range'_1] at hk
  simp [readByte, hd, h k hk.1 hk.2]

/-- On written bytes `memRead` does not depend on the draw either. -/
theorem memRead_congr_written (s t : State) (i n : Nat) (hw : allWritten s.fb i n = true)
    (h : ∀ k, i ≤ k → k < i + n → Memory.get? s.fb k = Memory.get? t.fb k) : memRead s i n = memRead t i n := by
  refine List.map_congr_left fun k hk => ?_
  rw [List.mem_range'_1] at hk
  have hs := (allWritten_iff _ _ _).1 hw k hk.1 hk.2
  obtain ⟨b, hb⟩ := Option.isSome_iff_exists.1 hs
  rw [readByte_of_get? s k b hb, readByte_of_get? t k b (h k hk.1 hk.2 ▸ hb)]

end Sys2Proof.Machine
end

