-- ==== Sys2Proof/Laws/State.lean ====
section
/-! SUPPORT. One lemma per field and update of State: what `setErr`, `setRxFlags`, `record`, `resetRegisters` and
`afterRead` leave in each field. Every other update is one of these by its own lemma below. -/

namespace Sys2Proof.Machine

open Sys2Proof

/-! ## `setErr` writes `err` -/

@[simp] theorem setErr_mode (e : ErrCode) (s : State) : (setErr e s).mode = s.mode := rfl
@[simp] theorem setErr_err (e : ErrCode) (s : State) : (setErr e s).err = e := rfl
@[simp] theorem setErr_rxv (e : ErrCode) (s : State) : (setErr e s).rxv = s.rxv := rfl
@[simp] theorem setErr_crcm (e : ErrCode) (s : State) : (setErr e s).crcm = s.crcm := rfl
@[simp] theorem setErr_acc (e : ErrCode) (s : State) : (setErr e s).acc = s.acc := rfl
@[simp] theorem setErr_flen (e : ErrCode) (s : State) : (setErr e s).flen = s.flen := rfl
@[simp] theorem setErr_txType (e : ErrCode) (s : State) : (setErr e s).txType = s.txType := rfl
@[simp] theorem setErr_txFlags (e : ErrCode) (s : State) : (setErr e s).txFlags = s.txFlags := rfl
@[simp] theorem setErr_txSrc (e : ErrCode) (s : State) : (setErr e s).txSrc = s.txSrc := rfl
@[simp] theorem setErr_txDest (e : ErrCode) (s : State) : (setErr e s).txDest = s.txDest := rfl
@[simp] theorem setErr_txSeq (e : ErrCode) (s : State) : (setErr e s).txSeq = s.txSeq := rfl
@[simp] theorem setErr_txPlen (e : ErrCode) (s : State) : (setErr e s).txPlen = s.txPlen := rfl
@[simp] theorem setErr_rxType (e : ErrCode) (s : State) : (setErr e s).rxType = s.rxType := rfl
@[simp] theorem setErr_rxFlags (e : ErrCode) (s : State) : (setErr e s).rxFlags = s.rxFlags := rfl
@[simp] theorem setErr_rxSrc (e : ErrCode) (s : State) : (setErr e s).rxSrc = s.rxSrc := rfl
@[simp] theorem setErr_rxDest (e : ErrCode) (s : State) : (setErr e s).rxDest = s.rxDest := rfl
@[simp] theorem setErr_rxSeq (e : ErrCode) (s : State) : (setErr e s).rxSeq = s.rxSeq := rfl
@[simp] theorem setErr_rxDlen (e : ErrCode) (s : State) : (setErr e s).rxDlen = s.rxDlen := rfl
@[simp] theorem setErr_rxDecl (e : ErrCode) (s : State) : (setErr e s).rxDecl = s.rxDecl := rfl
@[simp] theorem setErr_rxCalc (e : ErrCode) (s : State) : (setErr e s).rxCalc = s.rxCalc := rfl
@[simp] theorem setErr_rxRsvd (e : ErrCode) (s : State) : (setErr e s).rxRsvd = s.rxRsvd := rfl
@[simp] theorem setErr_rxPoff (e : ErrCode) (s : State) : (setErr e s).rxPoff = s.rxPoff := rfl
@[simp] theorem setErr_rxPlen (e : ErrCode) (s : State) : (setErr e s).rxPlen = s.rxPlen := rfl
@[simp] theorem setErr_fb (e : ErrCode) (s : State) : (setErr e s).fb = s.fb := rfl
@[simp] theorem setErr_draws (e : ErrCode) (s : State) : (setErr e s).draws = s.draws := rfl
@[simp] theorem setErr_inputs (e : ErrCode) (s : State) : (setErr e s).inputs = s.inputs := rfl
@[simp] theorem setErr_recorded (e : ErrCode) (s : State) : (setErr e s).recorded = s.recorded := rfl

/-! ## `setRxFlags` writes `rxv` and `crcm` -/

@[simp] theorem setRxFlags_mode (v c : Bool) (s : State) : (setRxFlags v c s).mode = s.mode := rfl
@[simp] theorem setRxFlags_err (v c : Bool) (s : State) : (setRxFlags v c s).err = s.err := rfl
@[simp] theorem setRxFlags_rxv (v c : Bool) (s : State) : (setRxFlags v c s).rxv = v := rfl
@[simp] theorem setRxFlags_crcm (v c : Bool) (s : State) : (setRxFlags v c s).crcm = c := rfl
@[simp] theorem setRxFlags_acc (v c : Bool) (s : State) : (setRxFlags v c s).acc = s.acc := rfl
@[simp] theorem setRxFlags_flen (v c : Bool) (s : State) : (setRxFlags v c s).flen = s.flen := rfl
@[simp] theorem setRxFlags_txType (v c : Bool) (s : State) : (setRxFlags v c s).txType = s.txType := rfl
@[simp] theorem setRxFlags_txFlags (v c : Bool) (s : State) : (setRxFlags v c s).txFlags = s.txFlags := rfl
@[simp] theorem setRxFlags_txSrc (v c : Bool) (s : State) : (setRxFlags v c s).txSrc = s.txSrc := rfl
@[simp] theorem setRxFlags_txDest (v c : Bool) (s : State) : (setRxFlags v c s).txDest = s.txDest := rfl
@[simp] theorem setRxFlags_txSeq (v c : Bool) (s : State) : (setRxFlags v c s).txSeq = s.txSeq := rfl
@[simp] theorem setRxFlags_txPlen (v c : Bool) (s : State) : (setRxFlags v c s).txPlen = s.txPlen := rfl
@[simp] theorem setRxFlags_rxType (v c : Bool) (s : State) : (setRxFlags v c s).rxType = s.rxType := rfl
@[simp] theorem setRxFlags_rxFlags (v c : Bool) (s : State) : (setRxFlags v c s).rxFlags = s.rxFlags := rfl
@[simp] theorem setRxFlags_rxSrc (v c : Bool) (s : State) : (setRxFlags v c s).rxSrc = s.rxSrc := rfl
@[simp] theorem setRxFlags_rxDest (v c : Bool) (s : State) : (setRxFlags v c s).rxDest = s.rxDest := rfl
@[simp] theorem setRxFlags_rxSeq (v c : Bool) (s : State) : (setRxFlags v c s).rxSeq = s.rxSeq := rfl
@[simp] theorem setRxFlags_rxDlen (v c : Bool) (s : State) : (setRxFlags v c s).rxDlen = s.rxDlen := rfl
@[simp] theorem setRxFlags_rxDecl (v c : Bool) (s : State) : (setRxFlags v c s).rxDecl = s.rxDecl := rfl
@[simp] theorem setRxFlags_rxCalc (v c : Bool) (s : State) : (setRxFlags v c s).rxCalc = s.rxCalc := rfl
@[simp] theorem setRxFlags_rxRsvd (v c : Bool) (s : State) : (setRxFlags v c s).rxRsvd = s.rxRsvd := rfl
@[simp] theorem setRxFlags_rxPoff (v c : Bool) (s : State) : (setRxFlags v c s).rxPoff = s.rxPoff := rfl
@[simp] theorem setRxFlags_rxPlen (v c : Bool) (s : State) : (setRxFlags v c s).rxPlen = s.rxPlen := rfl
@[simp] theorem setRxFlags_fb (v c : Bool) (s : State) : (setRxFlags v c s).fb = s.fb := rfl
@[simp] theorem setRxFlags_draws (v c : Bool) (s : State) : (setRxFlags v c s).draws = s.draws := rfl
@[simp] theorem setRxFlags_inputs (v c : Bool) (s : State) : (setRxFlags v c s).inputs = s.inputs := rfl
@[simp] theorem setRxFlags_recorded (v c : Bool) (s : State) : (setRxFlags v c s).recorded = s.recorded := rfl

/-! ## `record` writes `recorded` -/

@[simp] theorem record_mode (r : Reading) (s : State) : (record r s).mode = s.mode := rfl
@[simp] theorem record_err (r : Reading) (s : State) : (record r s).err = s.err := rfl
@[simp] theorem record_rxv (r : Reading) (s : State) : (record r s).rxv = s.rxv := rfl
@[simp] theorem record_crcm (r : Reading) (s : State) : (record r s).crcm = s.crcm := rfl
@[simp] theorem record_acc (r : Reading) (s : State) : (record r s).acc = s.acc := rfl
@[simp] theorem record_flen (r : Reading) (s : State) : (record r s).flen = s.flen := rfl
@[simp] theorem record_txType (r : Reading) (s : State) : (record r s).txType = s.txType := rfl
@[simp] theorem record_txFlags (r : Reading) (s : State) : (record r s).txFlags = s.txFlags := rfl
@[simp] theorem record_txSrc (r : Reading) (s : State) : (record r s).txSrc = s.txSrc := rfl
@[simp] theorem record_txDest (r : Reading) (s : State) : (record r s).txDest = s.txDest := rfl
@[simp] theorem record_txSeq (r : Reading) (s : State) : (record r s).txSeq = s.txSeq := rfl
@[simp] theorem record_txPlen (r : Reading) (s : State) : (record r s).txPlen = s.txPlen := rfl
@[simp] theorem record_rxType (r : Reading) (s : State) : (record r s).rxType = s.rxType := rfl
@[simp] theorem record_rxFlags (r : Reading) (s : State) : (record r s).rxFlags = s.rxFlags := rfl
@[simp] theorem record_rxSrc (r : Reading) (s : State) : (record r s).rxSrc = s.rxSrc := rfl
@[simp] theorem record_rxDest (r : Reading) (s : State) : (record r s).rxDest = s.rxDest := rfl
@[simp] theorem record_rxSeq (r : Reading) (s : State) : (record r s).rxSeq = s.rxSeq := rfl
@[simp] theorem record_rxDlen (r : Reading) (s : State) : (record r s).rxDlen = s.rxDlen := rfl
@[simp] theorem record_rxDecl (r : Reading) (s : State) : (record r s).rxDecl = s.rxDecl := rfl
@[simp] theorem record_rxCalc (r : Reading) (s : State) : (record r s).rxCalc = s.rxCalc := rfl
@[simp] theorem record_rxRsvd (r : Reading) (s : State) : (record r s).rxRsvd = s.rxRsvd := rfl
@[simp] theorem record_rxPoff (r : Reading) (s : State) : (record r s).rxPoff = s.rxPoff := rfl
@[simp] theorem record_rxPlen (r : Reading) (s : State) : (record r s).rxPlen = s.rxPlen := rfl
@[simp] theorem record_fb (r : Reading) (s : State) : (record r s).fb = s.fb := rfl
@[simp] theorem record_draws (r : Reading) (s : State) : (record r s).draws = s.draws := rfl
@[simp] theorem record_inputs (r : Reading) (s : State) : (record r s).inputs = s.inputs := rfl
@[simp] theorem record_recorded (r : Reading) (s : State) : (record r s).recorded = s.recorded ++ [r] := rfl

/-! ## `resetRegisters` writes every register and keeps FB -/

@[simp] theorem resetRegisters_mode (s : State) : (resetRegisters s).mode = .cps := rfl
@[simp] theorem resetRegisters_err (s : State) : (resetRegisters s).err = .none := rfl
@[simp] theorem resetRegisters_rxv (s : State) : (resetRegisters s).rxv = false := rfl
@[simp] theorem resetRegisters_crcm (s : State) : (resetRegisters s).crcm = false := rfl
@[simp] theorem resetRegisters_acc (s : State) : (resetRegisters s).acc = 0 := rfl
@[simp] theorem resetRegisters_flen (s : State) : (resetRegisters s).flen = 0 := rfl
@[simp] theorem resetRegisters_txType (s : State) : (resetRegisters s).txType = 0 := rfl
@[simp] theorem resetRegisters_txFlags (s : State) : (resetRegisters s).txFlags = 0 := rfl
@[simp] theorem resetRegisters_txSrc (s : State) : (resetRegisters s).txSrc = 0 := rfl
@[simp] theorem resetRegisters_txDest (s : State) : (resetRegisters s).txDest = 0 := rfl
@[simp] theorem resetRegisters_txSeq (s : State) : (resetRegisters s).txSeq = 0 := rfl
@[simp] theorem resetRegisters_txPlen (s : State) : (resetRegisters s).txPlen = 0 := rfl
@[simp] theorem resetRegisters_rxType (s : State) : (resetRegisters s).rxType = 0 := rfl
@[simp] theorem resetRegisters_rxFlags (s : State) : (resetRegisters s).rxFlags = 0 := rfl
@[simp] theorem resetRegisters_rxSrc (s : State) : (resetRegisters s).rxSrc = 0 := rfl
@[simp] theorem resetRegisters_rxDest (s : State) : (resetRegisters s).rxDest = 0 := rfl
@[simp] theorem resetRegisters_rxSeq (s : State) : (resetRegisters s).rxSeq = 0 := rfl
@[simp] theorem resetRegisters_rxDlen (s : State) : (resetRegisters s).rxDlen = 0 := rfl
@[simp] theorem resetRegisters_rxDecl (s : State) : (resetRegisters s).rxDecl = 0 := rfl
@[simp] theorem resetRegisters_rxCalc (s : State) : (resetRegisters s).rxCalc = 0 := rfl
@[simp] theorem resetRegisters_rxRsvd (s : State) : (resetRegisters s).rxRsvd = 0 := rfl
@[simp] theorem resetRegisters_rxPoff (s : State) : (resetRegisters s).rxPoff = 0 := rfl
@[simp] theorem resetRegisters_rxPlen (s : State) : (resetRegisters s).rxPlen = 0 := rfl
@[simp] theorem resetRegisters_fb (s : State) : (resetRegisters s).fb = s.fb := rfl
@[simp] theorem resetRegisters_draws (s : State) : (resetRegisters s).draws = s.draws := rfl
@[simp] theorem resetRegisters_inputs (s : State) : (resetRegisters s).inputs = s.inputs := rfl
@[simp] theorem resetRegisters_recorded (s : State) : (resetRegisters s).recorded = s.recorded := rfl

/-! ## `afterRead` writes `draws` at most -/

/-- Everything `afterRead` can do. -/
theorem afterRead_cases (s : State) (i n : Nat) :
    (allWritten s.fb i n = true ∧ afterRead s i n = s) ∨
    (allWritten s.fb i n = false ∧ afterRead s i n = { s with draws := s.draws + 1 }) := by
  unfold afterRead
  cases h : allWritten s.fb i n <;> simp

/-- `afterRead` as one update of `draws`. -/
theorem afterRead_eq (s : State) (i n : Nat) :
    afterRead s i n = { s with draws := if allWritten s.fb i n then s.draws else s.draws + 1 } := by
  unfold afterRead
  split <;> rfl

theorem afterRead_of_allWritten (s : State) (i n : Nat) (h : allWritten s.fb i n = true) : afterRead s i n = s := by
  simp [afterRead, h]

@[simp] theorem afterRead_mode (s : State) (i n : Nat) : (afterRead s i n).mode = s.mode := by rw [afterRead_eq]
@[simp] theorem afterRead_err (s : State) (i n : Nat) : (afterRead s i n).err = s.err := by rw [afterRead_eq]
@[simp] theorem afterRead_rxv (s : State) (i n : Nat) : (afterRead s i n).rxv = s.rxv := by rw [afterRead_eq]
@[simp] theorem afterRead_crcm (s : State) (i n : Nat) : (afterRead s i n).crcm = s.crcm := by rw [afterRead_eq]
@[simp] theorem afterRead_acc (s : State) (i n : Nat) : (afterRead s i n).acc = s.acc := by rw [afterRead_eq]
@[simp] theorem afterRead_flen (s : State) (i n : Nat) : (afterRead s i n).flen = s.flen := by rw [afterRead_eq]
@[simp] theorem afterRead_txType (s : State) (i n : Nat) : (afterRead s i n).txType = s.txType := by rw [afterRead_eq]
@[simp] theorem afterRead_txFlags (s : State) (i n : Nat) : (afterRead s i n).txFlags = s.txFlags := by rw [afterRead_eq]
@[simp] theorem afterRead_txSrc (s : State) (i n : Nat) : (afterRead s i n).txSrc = s.txSrc := by rw [afterRead_eq]
@[simp] theorem afterRead_txDest (s : State) (i n : Nat) : (afterRead s i n).txDest = s.txDest := by rw [afterRead_eq]
@[simp] theorem afterRead_txSeq (s : State) (i n : Nat) : (afterRead s i n).txSeq = s.txSeq := by rw [afterRead_eq]
@[simp] theorem afterRead_txPlen (s : State) (i n : Nat) : (afterRead s i n).txPlen = s.txPlen := by rw [afterRead_eq]
@[simp] theorem afterRead_rxType (s : State) (i n : Nat) : (afterRead s i n).rxType = s.rxType := by rw [afterRead_eq]
@[simp] theorem afterRead_rxFlags (s : State) (i n : Nat) : (afterRead s i n).rxFlags = s.rxFlags := by rw [afterRead_eq]
@[simp] theorem afterRead_rxSrc (s : State) (i n : Nat) : (afterRead s i n).rxSrc = s.rxSrc := by rw [afterRead_eq]
@[simp] theorem afterRead_rxDest (s : State) (i n : Nat) : (afterRead s i n).rxDest = s.rxDest := by rw [afterRead_eq]
@[simp] theorem afterRead_rxSeq (s : State) (i n : Nat) : (afterRead s i n).rxSeq = s.rxSeq := by rw [afterRead_eq]
@[simp] theorem afterRead_rxDlen (s : State) (i n : Nat) : (afterRead s i n).rxDlen = s.rxDlen := by rw [afterRead_eq]
@[simp] theorem afterRead_rxDecl (s : State) (i n : Nat) : (afterRead s i n).rxDecl = s.rxDecl := by rw [afterRead_eq]
@[simp] theorem afterRead_rxCalc (s : State) (i n : Nat) : (afterRead s i n).rxCalc = s.rxCalc := by rw [afterRead_eq]
@[simp] theorem afterRead_rxRsvd (s : State) (i n : Nat) : (afterRead s i n).rxRsvd = s.rxRsvd := by rw [afterRead_eq]
@[simp] theorem afterRead_rxPoff (s : State) (i n : Nat) : (afterRead s i n).rxPoff = s.rxPoff := by rw [afterRead_eq]
@[simp] theorem afterRead_rxPlen (s : State) (i n : Nat) : (afterRead s i n).rxPlen = s.rxPlen := by rw [afterRead_eq]
@[simp] theorem afterRead_fb (s : State) (i n : Nat) : (afterRead s i n).fb = s.fb := by rw [afterRead_eq]
@[simp] theorem afterRead_inputs (s : State) (i n : Nat) : (afterRead s i n).inputs = s.inputs := by rw [afterRead_eq]
@[simp] theorem afterRead_recorded (s : State) (i n : Nat) : (afterRead s i n).recorded = s.recorded := by rw [afterRead_eq]

/-! ## The other updates in terms of these -/

theorem raise_eq (e : ErrCode) (s : State) : raise e s = { s with err := e } := rfl

theorem complete_eq (s : State) : complete s = { s with err := .none } := rfl

theorem illegalCommand_eq (s : State) : illegalCommand s = { s with err := .illegalCmd } := rfl

theorem raiseRejected_eq (e : ErrCode) (s : State) :
    raiseRejected e s = { s with err := e, rxv := false, crcm := false } := rfl

theorem hardReset_eq (s : State) : hardReset s = { resetRegisters s with fb := [] } := rfl

end Sys2Proof.Machine
end

