-- ==== Sys2Proof/Laws/Ops.lean ====
section
/-! SUPPORT. What each shared operation can do, said once: the frame commands, the host's register writes, and one
step. Later proofs cite these instead of unfolding. -/

namespace Sys2Proof.Machine

open Sys2Proof

/-! ## Lengths -/

theorem txHeaderBytes_length (cfg : Config) (s : State) : (txHeaderBytes cfg s).length = hdrLen s.mode := by
  unfold txHeaderBytes
  cases s.mode <;> rfl

theorem hdrLen_cases (m : Mode) : hdrLen m = 12 ∧ m = .cps ∨ hdrLen m = 10 ∧ m = .nocrc ∨ hdrLen m = 4 ∧ m = .fw := by
  cases m <;> simp [hdrLen]

theorem bufBytes_bounds (cfg : Config) : 12 ≤ cfg.bufBytes ∧ cfg.bufBytes ≤ 65535 := by
  have := cfg.bufExtra.isLt
  unfold Config.bufBytes
  omega

theorem fwLenBase_cases (cfg : Config) : cfg.fwLenBase = 0 ∨ cfg.fwLenBase = 4 := by
  unfold Config.fwLenBase
  cases cfg.fwLength <;> simp

/-! ## ENCODE -/

theorem txOverflows_iff (cfg : Config) (s : State) :
    txOverflows cfg s = true ↔ 0xFFFF < txFrameLen s ∨ cfg.bufBytes < txFrameLen s := by
  rw [txOverflows, Bool.or_eq_true, decide_eq_true_iff, decide_eq_true_iff]
  exact Iff.rfl

theorem afterPayloadRead_eq (s : State) :
    afterPayloadRead s = { s with draws := (afterPayloadRead s).draws } := by
  unfold afterPayloadRead
  split
  · rw [afterRead_eq]
  · rw [afterRead_eq]
  · rfl

/-- Everything ENCODE can do. -/
theorem encodeFrame_cases (cfg : Config) (s : State) :
    (txOverflows cfg s = true ∧ encodeFrame cfg s = { s with err := .lenOverflow }) ∨
    (txOverflows cfg s = false ∧ encodeFrame cfg s =
      { s with
        fb := Memory.write s.fb 0 (txHeaderBytes cfg s)
        flen := BitVec.ofNat 16 (txFrameLen s)
        err := .none
        draws := (afterPayloadRead s).draws }) := by
  unfold encodeFrame
  cases h : txOverflows cfg s
  · right
    refine ⟨rfl, ?_⟩
    simp only [Bool.false_eq_true, if_false, complete_eq]
    rw [afterPayloadRead_eq]
  · left
    simp [raise_eq]

/-! ## DECODE -/

theorem frameError_cases (cfg : Config) (m : Mode) (f : List Byte) (e : ErrCode) (h : frameError cfg m f = some e) :
    e = .badMarker ∨ e = .lengthMismatch := by
  unfold frameError at h
  split at h
  · simp_all
  · split at h
    · simp_all
    · split at h <;> simp_all

/-- When DECODE accepts a frame that is in FB (R134 to R136). -/
theorem frameError_none_iff (cfg : Config) (m : Mode) (f : List Byte) :
    frameError cfg m f = none ↔
      (hasMarker m = true → f.length ≠ 0 ∧ byteAt f 0 = startMarker) ∧ hdrLen m ≤ f.length ∧
        lengthAgrees cfg m f = true := by
  unfold frameError
  split
  · next h =>
    simp only [Bool.and_eq_true, Bool.or_eq_true, beq_iff_eq, bne_iff_ne] at h
    simp only [reduceCtorEq, false_iff, not_and]
    exact fun hm => absurd (hm h.1) (by rcases h.2 with h | h <;> simp [h])
  · next h =>
    split
    · next h2 => simp; omega
    · next h2 => cases lengthAgrees cfg m f <;> simp_all

/-- Everything DECODE can do. -/
theorem decodeFrame_cases (cfg : Config) (s : State) :
    (cfg.bufBytes < s.flen.toNat ∧
      decodeFrame cfg s = { s with err := .lenOverflow, rxv := false, crcm := false }) ∨
    (s.flen.toNat ≤ cfg.bufBytes ∧ ∃ e, frameError cfg s.mode (memRead s 0 s.flen.toNat) = some e ∧
      decodeFrame cfg s =
        { s with err := e, rxv := false, crcm := false, draws := (afterRead s 0 s.flen.toNat).draws }) ∨
    (s.flen.toNat ≤ cfg.bufBytes ∧ frameError cfg s.mode (memRead s 0 s.flen.toNat) = none ∧
      decodeFrame cfg s =
        acceptFrame cfg s.mode (memRead s 0 s.flen.toNat) (afterRead s 0 s.flen.toNat)) := by
  unfold decodeFrame
  by_cases h : cfg.bufBytes < s.flen.toNat
  · exact .inl ⟨h, by simp [h, raiseRejected_eq]⟩
  · right
    have h' := Nat.le_of_not_lt h
    cases he : frameError cfg s.mode (memRead s 0 s.flen.toNat) with
    | some e =>
      refine .inl ⟨h', e, rfl, ?_⟩
      simp only [h, if_false, he, raiseRejected_eq]
      rw [afterRead_eq]
    | none => exact .inr ⟨h', rfl, by simp [h, he]⟩

/-- `acceptFrame` writes the flags, the RX registers and nothing else. -/
theorem acceptFrame_frame (cfg : Config) (m : Mode) (f : List Byte) (s : State) :
    acceptFrame cfg m f s =
      { s with
        err := (acceptFrame cfg m f s).err, rxv := (acceptFrame cfg m f s).rxv, crcm := (acceptFrame cfg m f s).crcm
        rxType := (acceptFrame cfg m f s).rxType, rxFlags := (acceptFrame cfg m f s).rxFlags
        rxSrc := (acceptFrame cfg m f s).rxSrc, rxDest := (acceptFrame cfg m f s).rxDest
        rxSeq := (acceptFrame cfg m f s).rxSeq, rxDlen := (acceptFrame cfg m f s).rxDlen
        rxDecl := (acceptFrame cfg m f s).rxDecl, rxCalc := (acceptFrame cfg m f s).rxCalc
        rxRsvd := (acceptFrame cfg m f s).rxRsvd, rxPoff := (acceptFrame cfg m f s).rxPoff
        rxPlen := (acceptFrame cfg m f s).rxPlen } := by
  cases m <;> rfl

/-- An accepted frame with matching checksums (R134, R140). -/
theorem acceptFrame_of_eq (cfg : Config) (m : Mode) (f : List Byte) (s : State)
    (h : declaredCrc m f = computedCrc cfg m f) :
    acceptFrame cfg m f s =
      { captureFields m f s with
        rxDecl := declaredCrc m f, rxCalc := declaredCrc m f, rxv := true, crcm := false, err := .none } := by
  simp only [acceptFrame, ← h, setErr, setRxFlags, ne_eq, not_true_eq_false, if_false, bne_self_eq_false]

/-- An accepted frame with a checksum mismatch (R134, R140). -/
theorem acceptFrame_of_ne (cfg : Config) (m : Mode) (f : List Byte) (s : State)
    (h : declaredCrc m f ≠ computedCrc cfg m f) :
    acceptFrame cfg m f s =
      { captureFields m f s with
        rxDecl := declaredCrc m f, rxCalc := computedCrc cfg m f, rxv := true, crcm := true
        err := .crc16Mismatch } := by
  simp only [acceptFrame, setErr, setRxFlags, ne_eq, h, not_false_eq_true, if_true]
  rw [bne_iff_ne.2 h]

/-! ## The register map -/

@[simp] theorem regAt_regOffset (r : Reg) : regAt (regOffset r) = some r := by cases r <;> rfl

/-- `regAt` finds a register at its own offset only. -/
theorem regAt_eq_some {off : Nat} {r : Reg} (h : regAt off = some r) : off = regOffset r := by
  have := List.find?_some h
  simpa using (beq_iff_eq.1 this).symm

/-- A register write outside CMD changes MODE, ACC, FLEN and the TX registers at most. -/
theorem writeReg_frame (s : State) (r : Reg) (v : Word) :
    writeReg s r v =
      { s with
        mode := (writeReg s r v).mode, acc := (writeReg s r v).acc, flen := (writeReg s r v).flen
        txType := (writeReg s r v).txType, txFlags := (writeReg s r v).txFlags
        txSrc := (writeReg s r v).txSrc, txDest := (writeReg s r v).txDest
        txSeq := (writeReg s r v).txSeq, txPlen := (writeReg s r v).txPlen } := by
  cases r <;> simp only [writeReg]
  split <;> rfl

/-! ## Commands, accesses and the step -/

theorem issueCommand_ok {v : Word} {i : Instr} (h : decode v = .ok i) (s : State) : issueCommand v s = exec i s := by
  simp [issueCommand, h]

theorem issueCommand_error {v : Word} {e : Illegal} (h : decode v = .error e) (s : State) :
    issueCommand v s = .next (illegalCommand s) := by
  simp [issueCommand, h]

/-- Everything a command word can do. -/
theorem issueCommand_cases {v : Word} {s t : State} (h : issueCommand v s = .next t) :
    (∃ e, decode v = .error e ∧ t = illegalCommand s) ∨ (∃ i, decode v = .ok i ∧ exec i s = .next t) := by
  unfold issueCommand at h
  split at h
  · next i hi => exact .inr ⟨i, hi, h⟩
  · next e he => injection h with h; exact .inl ⟨e, he, h.symm⟩

/-- Everything `RegWrite` can do. -/
theorem regWrite_cases {off : Nat} {v : Word} {s t : State} (h : regWrite off v s = .next t) :
    (off = 0x04 ∧ issueCommand v s = .next t) ∨
    (∃ r, r ≠ .cmd ∧ regAt off = some r ∧ t = writeReg s r v) ∨ (regAt off = none ∧ t = s) := by
  unfold regWrite at h
  split at h
  · next hr => exact .inl ⟨regAt_eq_some hr, h⟩
  · next r hne hr => injection h with h; exact .inr (.inl ⟨r, hne, hr, h.symm⟩)
  · next hr => injection h with h; exact .inr (.inr ⟨hr, h.symm⟩)

/-- Everything a step can do. -/
theorem step_cases {s t : State} (h : step s = .next t) :
    (s.inputs = [] ∧ t = s) ∨ ∃ e rest, s.inputs = e :: rest ∧ takeInput e { s with inputs := rest } = .next t := by
  unfold step stepInputs at h
  split at h
  · next hs => injection h with h; exact .inl ⟨hs, h.symm⟩
  · next e rest hs => exact .inr ⟨e, rest, hs, h⟩

theorem step_of_inputs {s : State} {e : Input} {rest : List Input} (h : s.inputs = e :: rest) :
    step s = takeInput e { s with inputs := rest } := by
  simp [step, stepInputs, h]

end Sys2Proof.Machine
end

