-- ==== Sys2Proof/Laws/PerInstr.lean ====
section
/-! SUPPORT. The per-instruction family WordForm: the word of a command has the three fields of spec/30_encoding.md
R70, and is legal by R71. -/

namespace Sys2Proof.Laws.WordForm

open Sys2Proof

/-- The fields of a command word built by `commandWord` (R70). -/
theorem fields (opc : Byte) (arg : Half) :
    opcField (commandWord opc arg) = opc ∧ rsvField (commandWord opc arg) = 0 ∧ argField (commandWord opc arg) = arg := by
  refine ⟨?_, ?_, ?_⟩ <;>
    · apply BitVec.eq_of_getLsbD_eq
      intro k hk
      simp only [opcField, rsvField, argField, commandWord, BitVec.getLsbD_extractLsb', BitVec.getLsbD_append]
      simp
      grind

/-- The word of `i` is legal, its OPC is the one of the opcode map, and its ARG is the one `i` carries. -/
def Statement (i : Instr) : Prop :=
  WellFormed.word (encode i) = true ∧ opcField (encode i) = opcodeOf i ∧ argField (encode i) = i.arg

/-- The family's common proof: a command whose OPC is in the map has a word of the right form. -/
theorem of_legal (i : Instr) (h : legalOpcodes.contains (opcodeOf i) = true) : Statement i := by
  obtain ⟨ho, hr, ha⟩ := fields (opcodeOf i) i.arg
  refine ⟨?_, ho, ha⟩
  simp only [WellFormed.word, WellFormed.rsv, WellFormed.opc, encode, ho, hr, h]
  rfl

theorem nop (arg : Half) : Statement (.nop arg) := of_legal _ rfl

theorem crcClear (arg : Half) : Statement (.crcClear arg) := of_legal _ rfl

theorem crcWord (arg : Half) : Statement (.crcWord arg) := of_legal _ rfl

theorem crcByte (arg : Half) : Statement (.crcByte arg) := of_legal _ rfl

theorem encode (arg : Half) : Statement (.encode arg) := of_legal _ rfl

theorem decode (arg : Half) : Statement (.decode arg) := of_legal _ rfl

theorem srst (arg : Half) : Statement (.srst arg) := of_legal _ rfl

end Sys2Proof.Laws.WordForm
end

