-- ==== Sys2Proof/Machine/Script.lean ====
section
/-! DEFINITION. The host script notation (spec/30_encoding.md R80, R81): what a script's statements make the host do.
A script changes no meaning of QFC; it is a way to write a list of inputs. Log entry 14. -/

namespace Sys2Proof.Machine

open Sys2Proof

/-- `<reg>`: "a register name …, or a raw offset written as a number" (R80). -/
inductive ScriptReg where
  | named (r : Reg)
  | offset (off : Nat)
  deriving DecidableEq, Repr

/-- A statement of a script: the four base statements (R80), then the pseudo-statements (R81). -/
inductive ScriptStmt where
  /-- `wr <reg>, <imm32>`. -/
  | wr (r : ScriptReg) (v : Word)
  /-- `rd <reg>`. -/
  | rd (r : ScriptReg)
  /-- `wrb <idx>, <imm8>`. -/
  | wrb (i : Nat) (b : Byte)
  /-- `rdb <idx>`. -/
  | rdb (i : Nat)
  /-- `cmd <MNEMONIC> <imm16>`; without the operand its ARG is 0. -/
  | cmd (c : Instr)
  /-- `mode CPS`, `mode FW`, `mode NOCRC`. -/
  | mode (m : Mode)
  /-- `hdr <type>, <flags>, <src>, <dest>`. -/
  | hdr (type flags src dest : Byte)
  /-- `seqlen <seq>, <plen>`. -/
  | seqlen (seq plen : Half)
  /-- `fill <idx>, <b0> <b1> … <bk>`. -/
  | fill (i : Nat) (bs : List Byte)
  /-- `dump <idx>, <count>`. -/
  | dump (i count : Nat)
  deriving DecidableEq, Repr

/-- The offset a script's `<reg>` stands for (R80). -/
def scriptOffset : ScriptReg → Nat
  | .named r => regOffset r
  | .offset off => off

/-- `fill` as single buffer writes (R81). -/
def fillAccesses : Nat → List Byte → List Access
  | _, [] => []
  | i, b :: bs => .bufWrite i b :: fillAccesses (i + 1) bs

/-- The host accesses of a statement, in order (R80, R81). -/
def expandStmt : ScriptStmt → List Access
  | .wr r v => [.regWrite (scriptOffset r) v]
  | .rd r => [.regRead (scriptOffset r)]
  | .wrb i b => [.bufWrite i b]
  | .rdb i => [.bufRead i]
  | .cmd c => [.regWrite (regOffset .cmd) (encode c)]
  | .mode m => [.regWrite (regOffset .ctrl) ((0 : BitVec 30) ++ modeCode m)]
  | .hdr type flags src dest => [.regWrite (regOffset .txHdr) (dest ++ src ++ flags ++ type)]
  | .seqlen seq plen => [.regWrite (regOffset .txSeqPlen) (plen ++ seq)]
  | .fill i bs => fillAccesses i bs
  | .dump i count => (List.range' i count).map .bufRead

/-- The inputs of a script: its statements "executed in order" (R80). -/
def scriptInputs (stmts : List ScriptStmt) : List Input := (stmts.flatMap expandStmt).map .host

end Sys2Proof.Machine
end

