-- ==== Sys2Proof/Tests/Slice0.lean ====
section
/-! SUPPORT. The model's own tests, with expected results from spec/95_test_vectors.md or worked out by hand from the
rule named, and one witness for every statement that has hypotheses. -/

namespace Sys2Proof.Tests.Slice0

open Sys2Proof Sys2Proof.Machine

/-! ## Helpers -/

/-- BUF_BYTES = 256 and ODD_TAIL = PAD_ZERO, as spec/95_test_vectors.md assumes unless it says otherwise. The firmware
checksum is left open there. -/
def cfg256 (tail : OddTail := .padZero) (len : FwLength := .payloadOnly) (crc : List Byte → Half := fun _ => 0) : Config :=
  ⟨244, tail, len, crc⟩

/-- One FW_CRC16 among many, for the firmware vectors: the plain sum of the first three words. -/
def sumCrc (b : List Byte) : Half := rdLE16 b 0 + rdLE16 b 2 + rdLE16 b 4

/-- BUF_BYTES = 64. -/
def cfg64 : Config := ⟨52, .padZero, .payloadOnly, fun _ => 0⟩

/-- BUF_BYTES = 65535. -/
def cfg65535 : Config := ⟨65523, .padZero, .payloadOnly, fun _ => 0⟩

/-- A state about to ENCODE. -/
def txState (m : Mode) (hdr seqPlen : Word) (payload : List Byte) : State :=
  writeReg (writeReg { State.reset with mode := m, fb := Memory.write [] (hdrLen m) payload } .txHdr hdr) .txSeqPlen seqPlen

/-- A state about to DECODE the frame `f`. -/
def rxState (m : Mode) (f : List Byte) : State :=
  { State.reset with mode := m, fb := Memory.write [] 0 f, flen := BitVec.ofNat 16 f.length }

/-- The bytes written from index 0 on. -/
def frameBytes (s : State) : List Byte := s.fb.map Prod.snd

/-- STATUS and the four RX registers as the host reads them. -/
def rxWords (s : State) : List Word := [0x08, 0x20, 0x24, 0x28, 0x2C].map (regRead s)

/-- The frame of V-D1. -/
def frameD1 : List Byte := [0x7E, 0x01, 0x00, 0x00, 0x00, 0x00, 0x00, 0x00, 0x00, 0x0C, 0x81, 0xF2]

/-- The frame of V-E3 under PAD_ZERO: 15 bytes. -/
def frameE3 : List Byte :=
  [0x7E, 0x02, 0x00, 0x80, 0x20, 0x10, 0x12, 0x34, 0x00, 0x0F, 0xD8, 0x6D, 0xAA, 0xBB, 0xCC]

/-- The frame of V-E3 under IGNORE. -/
def frameE3Ignore : List Byte :=
  [0x7E, 0x02, 0x00, 0x80, 0x20, 0x10, 0x12, 0x34, 0x00, 0x0F, 0xA4, 0x6E, 0xAA, 0xBB, 0xCC]

/-- The no-CRC frame of V-D11. -/
def frameD11 : List Byte := [0x7E, 0x01, 0x00, 0x00, 0x10, 0x20, 0x00, 0x01, 0x00, 0x0E, 0x02, 0x01, 0x00, 0x03]

/-! ## Well-formedness and decoding -/

/-- RSV = 0x01 is refused (R71, first condition; V-K3). -/
theorem test_wellformed_rsv_refused : WellFormed.rsv 0x00000110 = false ∧ WellFormed.word 0x00000110 = false := by decide

/-- OPC 0x04 is refused (R71, second condition; V-K4). -/
theorem test_wellformed_opc_refused : WellFormed.opc 0x00000004 = false ∧ WellFormed.word 0x00000004 = false := by decide

/-- The words of the seven commands, and words that differ from them in one field, are legal exactly as R71 says. -/
theorem test_wellformed_words_accepted :
    WellFormed.word 0xFFFF0000 = true ∧ WellFormed.word 0x000000FF = true ∧ WellFormed.word 0x000080FF = false := by decide

/-- NOP: ARG `0000000000000000`, RSV `00000000`, OPC `00000000` (R70). -/
theorem test_decode_nop : decode 0b00000000000000000000000000000000 = .ok (.nop 0x0000) := by decide

/-- CRC_CLEAR: OPC `00000001`. -/
theorem test_decode_crc_clear : decode 0b00000000000000000000000000000001 = .ok (.crcClear 0x0000) := by decide

/-- CRC_WORD 0x4321: ARG `0100001100100001`, OPC `00000010` (R111's example). -/
theorem test_decode_crc_word : decode 0b01000011001000010000000000000010 = .ok (.crcWord 0x4321) := by decide

/-- CRC_BYTE 0xAB12: ARG `1010101100010010`, OPC `00000011` (V-S12). -/
theorem test_decode_crc_byte : decode 0b10101011000100100000000000000011 = .ok (.crcByte 0xAB12) := by decide

/-- ENCODE: OPC `00010000`. -/
theorem test_decode_encode : decode 0b00000000000000000000000000010000 = .ok (.encode 0x0000) := by decide

/-- DECODE: OPC `00010001`. -/
theorem test_decode_decode : decode 0b00000000000000000000000000010001 = .ok (.decode 0x0000) := by decide

/-- SRST: OPC `11111111`. -/
theorem test_decode_srst : decode 0b00000000000000000000000011111111 = .ok (.srst 0x0000) := by decide

/-- The ends of the reserved OPC ranges, and RSV in its lowest and highest bit (R74). -/
theorem test_decode_reserved_refused :
    decode 0x00000004 = .error (.reservedOpcode 0x04) ∧ decode 0x0000000F = .error (.reservedOpcode 0x0F) ∧
    decode 0x00000012 = .error (.reservedOpcode 0x12) ∧ decode 0x000000FE = .error (.reservedOpcode 0xFE) ∧
    decode 0x00000110 = .error .reservedBits ∧ decode 0x00008000 = .error .reservedBits := by decide

/-- `decodeTableWord` on the two CRC words of R111 and R112, on an illegal word, and on a value beyond 32 bits. -/
theorem test_decode_table_word :
    decodeTableWord 32 0x43210002 = some (.crcWord 0x4321) ∧ decodeTableWord 16 0x007E0003 = some (.crcByte 0) ∧
    decodeTableWord 32 0x00000110 = none ∧ decodeTableWord 40 0x100000000 = none := by decide

/-- The rows' words are pairwise different under the common mask. -/
theorem test_opcode_table_rows_distinct :
    (opcodeTable.map (fun r => r.pattern)).Nodup ∧ opcodeTable.all (fun r => r.mask == 0x0000FFFF) = true := by decide

/-! ## The checksum functions -/

/-- V-C1 to V-C4: the two tails, and a sum that needs a second fold. -/
theorem test_crc16_cps_vectors :
    crc16Cps .padZero [] = 0xFFFF ∧ crc16Cps .padZero [0x7E] = 0xFF81 ∧ crc16Cps .ignore [0x7E] = 0xFFFF ∧
    crc16Cps .padZero [0x01, 0x02, 0x03] = 0xFDFB ∧ crc16Cps .ignore [0x01, 0x02, 0x03] = 0xFDFE ∧
    crc16Cps .padZero [0xFF, 0xFF, 0xFF, 0xFF, 0x01, 0x00] = 0xFFFE := by decide

/-- V-C5 and V-C6. -/
theorem test_crc16_cps_frame :
    crc16Cps .padZero (zeroSlot frameD1 10) = 0xF281 ∧ ocSum .padZero frameD1 = 0xFFFF := by decide

/-! ## One step of each command -/

/-- V-K1, as a step: NOP clears a stale ILLEGAL_CMD and keeps ACC. -/
theorem test_nop :
    step ({ State.reset with err := .illegalCmd, acc := 0x5555 }.withFetchWord 32 0xFFFF0000) =
      .next { State.reset with acc := 0x5555 } := by rfl

/-- V-S1, as a step; RXV stays 1 (V-K7). -/
theorem test_crc_clear :
    step ({ State.reset with acc := 0x5555, rxv := true }.withFetchWord 32 0x00000001) =
      .next { State.reset with rxv := true } := by rfl

/-- V-S14, as a step in FW mode. -/
theorem test_crc_word :
    step ({ State.reset with acc := 0x1234, mode := .fw }.withFetchWord 32 0x43210002) =
      .next { State.reset with acc := 0x5555, mode := .fw } := by rfl

/-- V-S4, V-S5, V-S6, V-S9 and V-S10: the carry folds back, and 0xFFFF is the second zero. -/
theorem test_crc_word_carries :
    ocAdd 0xFFFF 0x0001 = 0x0001 ∧ ocAdd 0xFFFF 0xFFFF = 0xFFFF ∧ ocAdd 0x8000 0x8000 = 0x0001 ∧
    ocAdd 0xFFFE 0x0001 = 0xFFFF ∧ ocAdd 0xFFFE 0x0002 = 0x0001 := by decide

/-- V-S12, as a step: ARG[15:8] does not enter. -/
theorem test_crc_byte :
    step (State.reset.withFetchWord 32 0xAB120003) = .next { State.reset with acc := 0x0012 } := by rfl

/-- V-E2 to V-E4 and V-E7: the CPS header with an even and an odd payload, and the no-CRC header. -/
theorem test_encode_cps_and_nocrc :
    frameBytes (encodeFrame (cfg256) (txState .cps 0x20100001 0x00040001 [0x02, 0x01, 0x00, 0x03])) =
      [0x7E, 0x01, 0x00, 0x00, 0x10, 0x20, 0x00, 0x01, 0x00, 0x10, 0x6F, 0xC9, 0x02, 0x01, 0x00, 0x03] ∧
    frameBytes (encodeFrame (cfg256) (txState .cps 0x10208002 0x00031234 [0xAA, 0xBB, 0xCC])) = frameE3 ∧
    frameBytes (encodeFrame (cfg256 .ignore) (txState .cps 0x10208002 0x00031234 [0xAA, 0xBB, 0xCC])) = frameE3Ignore ∧
    frameBytes (encodeFrame (cfg256) (txState .cps 0xFFFFFFFF 0x0004FFFF [0xFF, 0xFF, 0xFF, 0xFF])) =
      [0x7E, 0xFF, 0x00, 0xFF, 0xFF, 0xFF, 0xFF, 0xFF, 0x00, 0x10, 0x7F, 0xF1, 0xFF, 0xFF, 0xFF, 0xFF] ∧
    frameBytes (encodeFrame (cfg256) (txState .nocrc 0x20100001 0x00040001 [0x02, 0x01, 0x00, 0x03])) = frameD11 ∧
    (encodeFrame (cfg256) (txState .nocrc 0x20100001 0x00040001 [0x02, 0x01, 0x00, 0x03])).flen = 14 := by decide

/-- V-E8 and V-E8b with `sumCrc` for FW_CRC16 (K = 0x0002 + 0x55AA, K' = 0x0006 + 0x55AA), and V-E10 and V-E11, the two
bounds of R131. -/
theorem test_encode_fw_and_overflow :
    frameBytes (encodeFrame (cfg256 .padZero .payloadOnly sumCrc) (txState .fw 0xFFFFFFFF 0x00020000 [0xAA, 0x55])) =
      [0x02, 0x00, 0xAC, 0x55, 0xAA, 0x55] ∧
    frameBytes (encodeFrame (cfg256 .padZero .wholeFrame sumCrc) (txState .fw 0xFFFFFFFF 0x00020000 [0xAA, 0x55])) =
      [0x06, 0x00, 0xB0, 0x55, 0xAA, 0x55] ∧
    regRead (encodeFrame cfg64 (txState .cps 0 0x00350000 [])) 0x08 = 0x00000004 ∧
    regRead (encodeFrame cfg65535 (txState .cps 0 0xFFFF0000 [])) 0x08 = 0x00000004 := by decide

/-- V-D1, V-D6, V-D7, V-D7b, V-D10, V-D11, V-D12 and V-D14 (with `sumCrc` for FW_CRC16): accepted frames, with and without a checksum mismatch. -/
theorem test_decode_accepts :
    rxWords (decodeFrame (cfg256) (rxState .cps frameD1)) = [0x00000100, 0x00000001, 0x000C0000, 0xF281F281, 0x00000C00] ∧
    rxWords (decodeFrame (cfg256) (rxState .cps (zeroSlot frameD1 10))) =
      [0x00000303, 0x00000001, 0x000C0000, 0xF2810000, 0x00000C00] ∧
    rxWords (decodeFrame (cfg256) (rxState .cps
        [0x7E, 0x01, 0x00, 0x00, 0x00, 0x00, 0x00, 0x00, 0x00, 0x0E, 0xFF, 0xFF, 0x81, 0xF0])) =
      [0x00000303, 0x00000001, 0x000E0000, 0x0000FFFF, 0x00020C00] ∧
    rxWords (decodeFrame (cfg256) (rxState .cps
        [0x7E, 0x01, 0x00, 0x00, 0x00, 0x00, 0x00, 0x00, 0x00, 0x0E, 0x00, 0x00, 0x81, 0xF0])) =
      [0x00000100, 0x00000001, 0x000E0000, 0x00000000, 0x00020C00] ∧
    rxWords (decodeFrame (cfg256) (rxState .cps
        [0x7E, 0x01, 0x55, 0x00, 0x00, 0x00, 0x00, 0x00, 0x00, 0x0C, 0x2C, 0xF2])) =
      [0x00000100, 0x00000001, 0x000C0000, 0xF22CF22C, 0x00000C55] ∧
    rxWords (decodeFrame (cfg256) (rxState .nocrc frameD11)) =
      [0x00000100, 0x20100001, 0x000E0001, 0x00000000, 0x00040A00] ∧
    rxWords (decodeFrame (cfg256 .padZero .payloadOnly sumCrc) (rxState .fw [0x02, 0x00, 0xAC, 0x55, 0xAA, 0x55])) =
      [0x00000100, 0x00000000, 0x00020000, 0x55AC55AC, 0x00020400] ∧
    rxWords (decodeFrame (cfg256 .padZero .payloadOnly sumCrc) (rxState .fw [0x02, 0x00, 0x00, 0x00, 0xAA, 0x55])) =
      [0x00000303, 0x00000000, 0x00020000, 0x55AC0000, 0x00020400] := by decide

/-- V-D2, V-D3, V-D3b, V-D4, V-D5, V-D8, V-D9, V-D13 and V-D15: rejected frames, the first failing check reported, the RX
registers kept. -/
theorem test_decode_rejects :
    regRead (decodeFrame (cfg256) (rxState .cps (0x7F :: frameD1.tail))) 0x08 = 0x00000001 ∧
    regRead (decodeFrame (cfg256) (rxState .cps [])) 0x08 = 0x00000001 ∧
    regRead (decodeFrame (cfg256) (rxState .fw [])) 0x08 = 0x00000002 ∧
    regRead (decodeFrame (cfg256) (rxState .cps [0x7E, 0x01, 0x00, 0x00, 0x00])) 0x08 = 0x00000002 ∧
    regRead (decodeFrame (cfg256) (rxState .cps (frameD1 ++ [0x00]))) 0x08 = 0x00000002 ∧
    regRead (decodeFrame (cfg256) (rxState .cps [0x7F, 0x00, 0x00])) 0x08 = 0x00000001 ∧
    regRead (decodeFrame cfg64 { rxState .cps [] with flen := 100 }) 0x08 = 0x00000004 ∧
    regRead (decodeFrame (cfg256 .padZero .wholeFrame) (rxState .fw [0x02, 0x00, 0x00, 0x00, 0xAA, 0x55])) 0x08 = 0x00000002 ∧
    rxWords (decodeFrame (cfg256) { decodeFrame (cfg256) (rxState .nocrc frameD11) with
        mode := .cps, fb := Memory.write [] 0 (0x7F :: frameD1.tail), flen := 12 }) =
      [0x00000001, 0x20100001, 0x000E0001, 0x00000000, 0x00040A00] := by decide

/-- V-K6, as a step: FB keeps its bytes. -/
theorem test_srst :
    step ({ rxState .fw frameD1 with rxv := true, acc := 0x1234, txSeq := 7, rxPoff := 4 }.withFetchWord 32 0xABCD00FF) =
      .next { State.reset with fb := (rxState .fw frameD1).fb } := by rfl

/-- V-K3 and V-K5, as steps: an illegal word sets ERR and keeps ACC. -/
theorem test_illegal_words :
    step ({ State.reset with acc := 1 }.withFetchWord 32 0x00000110) = .next { State.reset with acc := 1, err := .illegalCmd } ∧
    step ({ State.reset with acc := 1 }.withFetchWord 32 0x000000FE) = .next { State.reset with acc := 1, err := .illegalCmd } :=
  ⟨rfl, rfl⟩

/-! ## The register interface, the buffer and the scripts -/

/-- V-R1 to V-R6 and V-R8. -/
theorem test_registers :
    (writeReg { State.reset with mode := .fw } .ctrl 0x00000003).mode = .fw ∧
    regRead (writeReg State.reset .ctrl 0xFFFFFFFE) 0x00 = 0x00000002 ∧
    regRead { State.reset with acc := 1 } 0x04 = 0 ∧ writeReg State.reset .status 0xFFFFFFFF = State.reset ∧
    regRead (rxState .cps frameD1) 0x02 = 0 ∧ regRead (rxState .cps frameD1) 0x30 = 0 ∧
    regRead (writeReg State.reset .crcAcc 0x1234ABCD) 0x0C = 0x0000ABCD ∧
    regRead (writeReg State.reset .crcAcc 0x1234ABCD) 0x10 = 0x00005432 ∧ regRead State.reset 0x10 = 0x0000FFFF := by decide

/-- V-R7: beyond BUF_BYTES = 256 a write is ignored and a read gives 0; index 255 holds a byte. -/
theorem test_buffer_range :
    bufWrite (cfg256) State.reset 300 1 = State.reset ∧ bufReadValue (cfg256) State.reset 300 = 0 ∧
    bufReadValue (cfg256) (bufWrite (cfg256) State.reset 255 1) 255 = 1 ∧
    (bufWrite (cfg256) State.reset 256 1).fb = [] := by decide

/-- The words spec/95_test_vectors.md writes beside P1's lines. -/
theorem test_script_expansions :
    [ScriptStmt.mode .cps, .hdr 0x01 0x00 0x10 0x20, .seqlen 0x0001 4, .fill 12 [0x02, 0x01], .cmd (.crcWord 0x017E),
        .rd (.named .status), .dump 0 2].flatMap expandStmt =
      [.regWrite 0x00 0x00000000, .regWrite 0x18 0x20100001, .regWrite 0x1C 0x00040001, .bufWrite 12 0x02, .bufWrite 13 0x01,
        .regWrite 0x04 0x017E0002, .regRead 0x08, .bufRead 0, .bufRead 1] := by decide

/-- Memory: writing out of order and twice leaves the canonical form. -/
theorem test_memory_canonical :
    Memory.set (Memory.set (Memory.set [] 5 1) 2 7) 5 9 = [(2, 7), (5, 9)] ∧ Memory.wf [(2, 7), (5, 9)] = true ∧
    Memory.wf [(5, 9), (2, 7)] = false ∧ Memory.wf State.reset.fb = true := by decide

/-- The host's machine is this one: from reset, with nothing from outside, it waits. -/
theorem test_core_waits : Host.Core.run core 3 core.reset = .next State.reset := by rfl

/-! ## Witnesses

One theorem for each statement that has hypotheses: concrete values that meet all of them together, for each clause, at
the boundary of its range. -/

/-- The reset state with one input waiting. -/
def waiting (e : Input) : State := { State.reset with inputs := [e] }

/-- The reset state with one host access waiting. -/
def hostWaits (a : Access) : State := waiting (.host a)

theorem witness_DecodeAndEncodeAgree : decode 0x43210002 = .ok (.crcWord 0x4321) := by decide

theorem witness_DecodeFollowsTheOpcodeMap :
    (0xFFFF0000 : Word) &&& 0x0000FFFF = 0x00000000 ∧ (0x12340001 : Word) &&& 0x0000FFFF = 0x00000001 ∧
    (0x43210002 : Word) &&& 0x0000FFFF = 0x00000002 ∧ (0xAB120003 : Word) &&& 0x0000FFFF = 0x00000003 ∧
    (0x00010010 : Word) &&& 0x0000FFFF = 0x00000010 ∧ (0x80000011 : Word) &&& 0x0000FFFF = 0x00000011 ∧
    (0xABCD00FF : Word) &&& 0x0000FFFF = 0x000000FF ∧ decode 0x00000011 = .ok (.decode 0) ∧
    (∀ i, decode 0x00000110 ≠ .ok i) :=
  ⟨by decide, by decide, by decide, by decide, by decide, by decide, by decide, by decide,
    fun _ h => Except.noConfusion rfl rfl (heq_of_eq ((show decode 0x00000110 = .error .reservedBits by decide).symm.trans h))⟩

theorem witness_OpcodeTableRowsDecide : ∃ row ∈ opcodeTable, (0x43210002 : Word) &&& row.mask = row.pattern :=
  ⟨⟨"CRC_WORD", 0x00000002, 0x0000FFFF, .crcWord⟩, by simp [opcodeTable], by decide⟩

theorem witness_ArgMattersOnlyToTheCrcWords :
    (0x43210002 : Word) &&& 0x0000FFFF = 0x00000002 ∧ (0xAB120003 : Word) &&& 0x0000FFFF = 0x00000003 ∧
    (0xFFFF0010 : Word).extractLsb' 0 16 = (0x00000010 : Word).extractLsb' 0 16 ∧
    (0xFFFF0010 : Word) &&& 0x0000FFFF ≠ 0x00000002 ∧ (0xFFFF0010 : Word) &&& 0x0000FFFF ≠ 0x00000003 := by decide

theorem witness_CmdWriteRunsTheCommand :
    (hostWaits (.regWrite 0x04 0x43210002)).inputs = .host (.regWrite 0x04 0x43210002) :: [] ∧
    decode 0x43210002 = .ok (.crcWord 0x4321) ∧
    (hostWaits (.regWrite 0x04 0x00000110)).inputs = .host (.regWrite 0x04 0x00000110) :: [] ∧
    decode 0x00000110 = .error .reservedBits ∧
    (hostWaits (.regRead 0x04)).inputs = .host (.regRead 0x04) :: [] := by decide

theorem witness_NoInputMeansNoChange : State.reset.inputs = [] := by decide

theorem witness_NopClearsErrAndNothingElse : (0xFFFF0000 : Word) &&& 0x0000FFFF = 0x00000000 := by decide

theorem witness_SrstResetsRegistersKeepsFb : (0xABCD00FF : Word) &&& 0x0000FFFF = 0x000000FF := by decide

theorem witness_IllegalWordSetsErrAndNothingElse :
    (0x00000110 : Word).extractLsb' 8 8 ≠ 0 ∧ ReservedOpcode ((0x00000004 : Word).extractLsb' 0 8) ∧
    ReservedOpcode ((0x0000000F : Word).extractLsb' 0 8) ∧ ReservedOpcode ((0x00000012 : Word).extractLsb' 0 8) ∧
    ReservedOpcode ((0x000000FE : Word).extractLsb' 0 8) := by unfold ReservedOpcode; decide

theorem witness_CrcClearZeroesTheSum : (0x00000001 : Word) &&& 0x0000FFFF = 0x00000001 := by decide

theorem witness_CrcWordAddsArg : (0xFFFF0002 : Word) &&& 0x0000FFFF = 0x00000002 := by decide

theorem witness_CrcByteAddsTheLowByte : (0xAB120003 : Word) &&& 0x0000FFFF = 0x00000003 := by decide

theorem witness_OcAddLaws : (0x0001 : Half) ≠ 0 := by decide

theorem witness_FrameWordsArePairsAndTail :
    ([0x01, 0x02, 0x03] : List Byte).length % 2 = 1 ∧ ([0x01, 0x02] : List Byte).length % 2 = 0 := by decide

theorem witness_OcSumEqualsRepeatedOcAdd :
    (frameWords .padZero [0x01, 0x00, 0x02, 0x00]).Perm (frameWords .ignore [0x02, 0x00, 0x01, 0x00, 0x55]) := by decide

theorem witness_ZeroedCrcSlotAddsNothing : 12 ≤ frameD1.length := by decide

/-- The frame of V-D1, whose checksum 0xF281 is the correct one (V-C6), and the odd frame of V-E3 under each ODD_TAIL. -/
theorem witness_SumIdentityAgainstExactCompare :
    (12 ≤ frameD1.length ∧ rdLE16 frameD1 10 = crc16Cps .ignore (zeroSlot frameD1 10)) ∧
    (12 ≤ frameE3.length ∧ rdLE16 frameE3 10 = crc16Cps .padZero (zeroSlot frameE3 10)) ∧
    (12 ≤ frameE3Ignore.length ∧ rdLE16 frameE3Ignore 10 = crc16Cps .ignore (zeroSlot frameE3Ignore 10)) := by decide

theorem witness_StreamingEqualsFrameCrc :
    ([0x0403, 0x0201] : List Half).Perm (pairWords [0x01, 0x02, 0x03, 0x04, 0x05]) := by decide

/-- The two bounds of R131 and the last lengths below them. -/
theorem witness_EncodeChecksTheLength :
    (let s := txState .cps 0 0xFFF40000 []
     0xFFFF < hdrLen s.mode + s.txPlen.toNat) ∧
    (let s := txState .cps 0 0xFFF30000 []
     hdrLen s.mode + s.txPlen.toNat ≤ 0xFFFF ∧ hdrLen s.mode + s.txPlen.toNat ≤ cfg65535.bufBytes) ∧
    (let s := txState .cps 0 0x00350000 []
     cfg64.bufBytes < hdrLen s.mode + s.txPlen.toNat) ∧
    (let s := txState .cps 0 0x00340000 []
     hdrLen s.mode + s.txPlen.toNat ≤ 0xFFFF ∧ hdrLen s.mode + s.txPlen.toNat ≤ cfg64.bufBytes) := by decide

/-- A header-only frame fits in every QFC, since 12 ≤ BUF_BYTES. -/
theorem witness_EncodeWritesTheCpsAndNocrcHeader :
    (let s := txState .cps 0x20100001 0x00000001 []
     s.mode ≠ .fw ∧ (12 : Half).toNat = hdrLen s.mode + s.txPlen.toNat ∧ (12 : Half).toNat ≤ Config.here.bufBytes ∧
       s.mode = .cps) ∧
    (let s := txState .nocrc 0x20100001 0x00000001 []
     s.mode ≠ .fw ∧ (10 : Half).toNat = hdrLen s.mode + s.txPlen.toNat ∧ (10 : Half).toNat ≤ Config.here.bufBytes ∧
       s.mode = .nocrc) := by
  have h := (bufBytes_bounds Config.here).1
  exact ⟨⟨by decide, by decide, h, rfl⟩, ⟨by decide, by decide, Nat.le_trans (by decide) h, rfl⟩⟩

theorem witness_EncodeWritesTheFirmwareHeader :
    let s := txState .fw 0 0 []
    s.mode = .fw ∧ (4 : Half).toNat = 4 + s.txPlen.toNat ∧ (4 : Half).toNat ≤ Config.here.bufBytes :=
  ⟨rfl, by decide, Nat.le_trans (by decide) (bufBytes_bounds Config.here).1⟩

theorem witness_EncodeFrameCondition :
    (encodeFrame cfg64 (txState .cps 0 0x00350000 [])).err = .lenOverflow ∧
    hdrLen (txState .cps 0 0x00350000 []).mode ≤ 12 := by decide

theorem witness_EncodeTwiceIsEncodeOnce :
    let s := txState .cps 0x20100001 0x00040001 [0x02, 0x01, 0x00, 0x03]
    allWritten s.fb (hdrLen s.mode) s.txPlen.toNat = true := by decide

theorem witness_EncodedFramesMeetTheWireInvariants :
    (let s := txState .cps 0x20100001 0x00040001 [0x02, 0x01, 0x00, 0x03]
     (encodeFrame (cfg256) s).err = .none ∧ allWritten s.fb (hdrLen s.mode) s.txPlen.toNat = true ∧ s.mode = .cps) ∧
    (let s := txState .nocrc 0x20100001 0x00030001 [0x02, 0x01, 0x00]
     (encodeFrame (cfg256) s).err = .none ∧ allWritten s.fb (hdrLen s.mode) s.txPlen.toNat = true ∧ s.mode = .nocrc) ∧
    (let s := txState .fw 0 0x00020000 [0xAA, 0x55]
     (encodeFrame (cfg256) s).err = .none ∧ allWritten s.fb (hdrLen s.mode) s.txPlen.toNat = true ∧ s.mode = .fw) := by
  decide

/-- Each check of R183 at its boundary: FLEN = BUF_BYTES + 1; FLEN = 0 and a wrong marker at FLEN = BUF_BYTES; 11 bytes,
and 12 bytes with a wrong declared length; 3 bytes in firmware mode. -/
theorem witness_DecodeRejectsInOrder :
    cfg64.bufBytes < ({ State.reset with flen := 65 } : State).flen.toNat ∧
    ((rxState .cps []).flen.toNat ≤ cfg64.bufBytes ∧ ¬ MarkerFits (rxState .cps [])) ∧
    (let s : State := { rxState .nocrc [0x7F] with flen := 64 }
     s.flen.toNat ≤ cfg64.bufBytes ∧ ¬ MarkerFits s) ∧
    (let s := rxState .cps (frameD1.take 11)
     s.flen.toNat ≤ cfg64.bufBytes ∧ MarkerFits s ∧ s.flen.toNat < hdrLen s.mode) ∧
    (let s := rxState .cps [0x7E, 0x01, 0x00, 0x00, 0x00, 0x00, 0x00, 0x00, 0x00, 0x0D, 0x81, 0xF2]
     s.flen.toNat ≤ cfg64.bufBytes ∧ MarkerFits s ∧ ¬ LengthFits cfg64 s) ∧
    (let s := rxState .fw [0x00, 0x00, 0x00]
     s.flen.toNat ≤ cfg64.bufBytes ∧ MarkerFits s ∧ s.flen.toNat < hdrLen s.mode) := by
  unfold MarkerFits LengthFits; decide

/-- The 12-byte CPS frame of V-D1 and a 10-byte no-CRC frame are accepted by every QFC. -/
theorem witness_DecodeCapturesCpsAndNocrcFields :
    (let s := rxState .cps frameD1
     s.mode ≠ .fw ∧ s.flen.toNat ≤ Config.here.bufBytes ∧ hdrLen s.mode ≤ s.flen.toNat ∧ MarkerFits s ∧
       LengthFits Config.here s) ∧
    (let s := rxState .nocrc [0x7E, 0x01, 0x00, 0x00, 0x00, 0x00, 0x00, 0x00, 0x00, 0x0A]
     s.mode ≠ .fw ∧ s.flen.toNat ≤ Config.here.bufBytes ∧ hdrLen s.mode ≤ s.flen.toNat ∧ MarkerFits s ∧
       LengthFits Config.here s) := by
  have h := (bufBytes_bounds Config.here).1
  exact ⟨⟨by decide, h, by decide, .inr (by decide), .inl (by decide)⟩,
    ⟨by decide, Nat.le_trans (by decide) h, by decide, .inr (by decide), .inl (by decide)⟩⟩

/-- A firmware frame without payload whose length field is FW_LEN_BASE is accepted by every QFC. -/
def emptyFwFrame : State := rxState .fw (le16 (BitVec.ofNat 16 Config.here.fwLenBase) ++ [0x00, 0x00])

theorem witness_DecodeCapturesFirmwareFields :
    emptyFwFrame.mode = .fw ∧ emptyFwFrame.flen.toNat ≤ Config.here.bufBytes ∧ 4 ≤ emptyFwFrame.flen.toNat ∧
      LengthFits Config.here emptyFwFrame := by
  refine ⟨rfl, Nat.le_trans (by decide) (bufBytes_bounds Config.here).1, by decide, .inr ⟨rfl, ?_⟩⟩
  unfold emptyFwFrame
  rcases fwLenBase_cases Config.here with h | h <;> rw [h] <;> decide

/-- V-D1 and V-D6: equal and unequal checksums. -/
theorem witness_CrcMismatchStillAcceptsTheFrame :
    (let s := rxState .cps frameD1
     s.flen.toNat ≤ (cfg256).bufBytes ∧ MarkerFits s ∧ hdrLen s.mode ≤ s.flen.toNat ∧ LengthFits (cfg256) s ∧
       (decodeFrame (cfg256) s).rxDecl = (decodeFrame (cfg256) s).rxCalc) ∧
    (let s := rxState .cps (zeroSlot frameD1 10)
     s.flen.toNat ≤ (cfg256).bufBytes ∧ MarkerFits s ∧ hdrLen s.mode ≤ s.flen.toNat ∧ LengthFits (cfg256) s ∧
       (decodeFrame (cfg256) s).rxDecl ≠ (decodeFrame (cfg256) s).rxCalc) := by
  unfold MarkerFits LengthFits; decide

theorem witness_DecodeTwiceIsDecodeOnce :
    allWritten (rxState .cps frameD1).fb 0 (rxState .cps frameD1).flen.toNat = true := by decide

/-- A buffer that differs from the frame's at the first index beyond it, and one that differs in the header alone. -/
theorem witness_CommandsLookOnlyAtTheirFrame :
    (let s := rxState .cps frameD1
     ∀ a, a < s.flen.toNat → Memory.get? (Memory.set s.fb 12 0x55) a = Memory.get? s.fb a) ∧
    (let s := txState .fw 0 0x00020000 [0xAA, 0x55]
     (∀ a, hdrLen s.mode ≤ a → a < hdrLen s.mode + s.txPlen.toNat →
       Memory.get? (Memory.set s.fb 3 0x55) a = Memory.get? s.fb a) ∧ (encodeFrame (cfg256) s).err = .none) := by
  refine ⟨by decide, fun a h _ => Memory.get?_set_of_ne _ _ ?_, by decide⟩
  have : 4 ≤ a := h
  omega

theorem witness_FrameCommandsArePureOnWrittenBytes :
    (let s := txState .cps 0x20100001 0x00040001 [0x02, 0x01, 0x00, 0x03]
     allWritten s.fb (hdrLen s.mode) s.txPlen.toNat = true) ∧
    allWritten (rxState .cps frameD1).fb 0 (rxState .cps frameD1).flen.toNat = true := by decide

/-- V-E2, then a NOP before the DECODE; and a firmware frame. -/
theorem witness_DecodeOfEncodeRoundTrip :
    (let s := txState .cps 0x20100001 0x00040001 [0x02, 0x01, 0x00, 0x03]
     let u := complete (encodeFrame (cfg256) s)
     (encodeFrame (cfg256) s).err = .none ∧ allWritten s.fb (hdrLen s.mode) s.txPlen.toNat = true ∧
       u.fb = (encodeFrame (cfg256) s).fb ∧ u.flen = (encodeFrame (cfg256) s).flen ∧ u.mode = s.mode ∧ s.mode ≠ .fw) ∧
    (let s := txState .fw 0 0x00020000 [0xAA, 0x55]
     let u := encodeFrame (cfg256) s
     (encodeFrame (cfg256) s).err = .none ∧ allWritten s.fb (hdrLen s.mode) s.txPlen.toNat = true ∧
       u.fb = (encodeFrame (cfg256) s).fb ∧ u.flen = (encodeFrame (cfg256) s).flen ∧ u.mode = s.mode) := by decide

/-- The correct 15-byte frame of V-E3, with the changed byte at each end of each of the ranges of R143, and its last
byte changed under IGNORE. -/
theorem witness_SingleByteCorruptionIsReported :
    (let s := rxState .cps frameE3
     (cfg256).oddTail = .padZero ∧ s.mode = .cps ∧ allWritten s.fb 0 s.flen.toNat = true ∧
       (decodeFrame (cfg256) s).err = .none ∧
       ∀ j ∈ [0, 1, 7, 8, 9, 10, 11, 12, 14], j < s.flen.toNat ∧ Memory.get? s.fb j ≠ some 0x77) ∧
    (let s := rxState .cps frameE3Ignore
     (cfg256 .ignore).oddTail = .ignore ∧ s.mode = .cps ∧ allWritten s.fb 0 s.flen.toNat = true ∧
       (decodeFrame (cfg256 .ignore) s).err = .none ∧ 12 < s.flen.toNat ∧ s.flen.toNat % 2 = 1) := by decide

theorem witness_CtrlStoresLegalModesOnly :
    (hostWaits (.regWrite 0x00 0xFFFFFFFF)).inputs = .host (.regWrite 0x00 0xFFFFFFFF) :: [] ∧
    (0xFFFFFFFF : Word).extractLsb' 0 2 = 3 ∧
    (hostWaits (.regWrite 0x00 0xFFFFFFFE)).inputs = .host (.regWrite 0x00 0xFFFFFFFE) :: [] ∧
    (0xFFFFFFFE : Word).extractLsb' 0 2 ≠ 3 := by decide

theorem witness_StatusWordLayout :
    (hostWaits (.regWrite 0x08 0xFFFFFFFF)).inputs = .host (.regWrite 0x08 0xFFFFFFFF) :: [] := by decide

theorem witness_CrcAccAndCrcOut :
    (hostWaits (.regWrite 0x0C 0x1234ABCD)).inputs = .host (.regWrite 0x0C 0x1234ABCD) :: [] ∧
    (hostWaits (.regWrite 0x10 5)).inputs = .host (.regWrite 0x10 5) :: [] := by decide

theorem witness_LengthAndTransmitRegistersStore :
    (hostWaits (.regWrite 0x14 0xABCD0010)).inputs = .host (.regWrite 0x14 0xABCD0010) :: [] ∧
    (hostWaits (.regWrite 0x18 0x20100001)).inputs = .host (.regWrite 0x18 0x20100001) :: [] ∧
    (hostWaits (.regWrite 0x1C 0x00040001)).inputs = .host (.regWrite 0x1C 0x00040001) :: [] := by decide

theorem witness_ReceiveRegistersAreReadOnly :
    (0x20 = 0x20 ∨ 0x20 = 0x24 ∨ 0x20 = 0x28 ∨ 0x20 = 0x2C) ∧
    (hostWaits (.regWrite 0x20 5)).inputs = .host (.regWrite 0x20 5) :: [] ∧
    (hostWaits (.regWrite 0x24 5)).inputs = .host (.regWrite 0x24 5) :: [] ∧
    (hostWaits (.regWrite 0x28 5)).inputs = .host (.regWrite 0x28 5) :: [] ∧
    (hostWaits (.regWrite 0x2C 5)).inputs = .host (.regWrite 0x2C 5) :: [] := by decide

/-- The first offset beyond the map, the last misaligned one below it, and the two ends of the map. -/
theorem witness_UnmappedOffsetsReadZeroIgnoreWrites :
    ¬ (0x30 % 4 = 0 ∧ 0x30 ≤ 0x2C) ∧ ¬ (0x2B % 4 = 0 ∧ 0x2B ≤ 0x2C) ∧ ¬ (0x01 % 4 = 0 ∧ 0x01 ≤ 0x2C) ∧
    (hostWaits (.regRead 0x30)).inputs = .host (.regRead 0x30) :: [] ∧
    (hostWaits (.regWrite 0x01 5)).inputs = .host (.regWrite 0x01 5) :: [] ∧
    (regAt 0x2C).isSome = true ∧ (regAt 0x00).isSome = true := by decide

/-- The first index beyond FB. -/
theorem witness_BufferBeyondTheEndReadsZero :
    Config.here.bufBytes ≤ Config.here.bufBytes ∧
    (hostWaits (.bufRead Config.here.bufBytes)).inputs = .host (.bufRead Config.here.bufBytes) :: [] ∧
    (hostWaits (.bufWrite Config.here.bufBytes 5)).inputs = .host (.bufWrite Config.here.bufBytes 5) :: [] :=
  ⟨Nat.le_refl _, rfl, rfl⟩

/-- The last index of FB, and index 11, which every QFC has. -/
theorem witness_BufferWriteThenRead :
    (Config.here.bufBytes - 1 < Config.here.bufBytes ∧
      (hostWaits (.bufWrite (Config.here.bufBytes - 1) 5)).inputs =
        .host (.bufWrite (Config.here.bufBytes - 1) 5) :: []) ∧
    (11 < Config.here.bufBytes ∧
      Memory.get? ({ rxState .cps frameD1 with inputs := [.host (.bufRead 11)] } : State).fb 11 = some 0xF2 ∧
      ({ rxState .cps frameD1 with inputs := [.host (.bufRead 11)] } : State).inputs = .host (.bufRead 11) :: []) := by
  have h := (bufBytes_bounds Config.here).1
  exact ⟨⟨by omega, rfl⟩, ⟨by omega, by decide, rfl⟩⟩

theorem witness_UnwrittenByteReadsAFreeValue :
    0 < Config.here.bufBytes ∧ Memory.get? (hostWaits (.bufRead 0)).fb 0 = none ∧
    (hostWaits (.bufRead 0)).inputs = .host (.bufRead 0) :: [] := by
  have h := (bufBytes_bounds Config.here).1
  exact ⟨by omega, rfl, rfl⟩

theorem witness_ResetValues : (waiting .hardReset).inputs = .hardReset :: [] := by decide

/-- A buffer write, an ENCODE and a hardware reset that each change byte 0. -/
theorem witness_WhatCanChangeABufferByte :
    (step (hostWaits (.bufWrite 0 5)) = .next { State.reset with fb := [(0, 5)] } ∧
      Memory.get? [(0, 5)] 0 ≠ Memory.get? (hostWaits (.bufWrite 0 5)).fb 0) ∧
    (step (State.reset.withFetchWord 32 0x00000010) = .next (encodeFrame Config.here State.reset) ∧
      Memory.get? (encodeFrame Config.here State.reset).fb 0 ≠ Memory.get? (State.reset.withFetchWord 32 0x00000010).fb 0) ∧
    (step { rxState .cps frameD1 with inputs := [.hardReset] } = .next (hardReset { rxState .cps frameD1 with inputs := [] }) ∧
      Memory.get? (hardReset { rxState .cps frameD1 with inputs := [] }).fb 0 ≠ Memory.get? (rxState .cps frameD1).fb 0) := by
  have h := (bufBytes_bounds Config.here).1
  refine ⟨⟨?_, by decide⟩, ⟨rfl, ?_⟩, ⟨rfl, by decide⟩⟩
  · rw [step_of_inputs (e := .host (.bufWrite 0 5)) (rest := []) rfl]
    show Host.Outcome.next (bufWrite Config.here State.reset 0 5) = _
    rw [bufWrite, if_pos (by omega)]
    rfl
  · rcases encodeFrame_cases Config.here State.reset with ⟨ho, _⟩ | ⟨_, e⟩
    · rw [txOverflows_iff] at ho
      have e0 : txFrameLen State.reset = 12 := rfl
      omega
    · rw [e]
      show Memory.get? (Memory.write [] 0 _) 0 ≠ none
      rw [show (0 : Nat) = 0 + 0 from rfl, Memory.get?_write_of_mem _ _ 0 0 (by rw [txHeaderBytes_length]; decide)]
      exact Option.some_ne_none _

theorem witness_WhatCanChangeTheReceiveRegisters :
    step (State.reset.withFetchWord 32 0x00000011) = .next (decodeFrame Config.here State.reset) := by rfl

theorem witness_WhatCanChangeModeAndTransmitRegisters :
    step (hostWaits (.regWrite 0x00 2)) = .next { State.reset with mode := .nocrc } ∧
    step (hostWaits (.regWrite 0x18 0x20100001)) =
      .next { State.reset with txType := 0x01, txSrc := 0x10, txDest := 0x20 } ∧
    step (hostWaits (.regWrite 0x1C 0x00040001)) = .next { State.reset with txSeq := 1, txPlen := 4 } := ⟨rfl, rfl, rfl⟩

theorem witness_WhatCanChangeAccFlenAndErr :
    step (State.reset.withFetchWord 32 0x43210002) = .next { State.reset with acc := 0x4321 } := by rfl

/-- The last clause's hypothesis, a changed draw count, is met by the read of an UNWRITTEN byte. -/
theorem witness_ReadsHaveNoSideEffects :
    (hostWaits (.regRead 0x08)).inputs = .host (.regRead 0x08) :: [] ∧
    (hostWaits (.bufRead 0)).inputs = .host (.bufRead 0) :: [] := by decide

theorem witness_EqualBuffersAreEqualData :
    Memory.wf (Memory.set (Memory.set [] 5 1) 2 7) = true ∧ Memory.wf [(2, 7), (5, 1)] = true ∧
    ∀ i, Memory.get? (Memory.set (Memory.set [] 5 1) 2 7) i = Memory.get? [(2, 7), (5, 1)] i :=
  ⟨by decide, by decide, fun _ => rfl⟩

/-- A state with RXV = 1 and CRCM = 1 that meets the invariant in every QFC, about to run a NOP. -/
def softErrorState : State :=
  { State.reset with
    err := .crc16Mismatch, rxv := true, crcm := true, flen := 12, rxType := 1, rxDlen := 12, rxDecl := 0
    rxCalc := 0xF281, rxPoff := 12, fb := Memory.write [] 0 (zeroSlot frameD1 10)
    inputs := [.host (.regWrite 0x04 0)] }

theorem witness_InvariantIsKeptByEveryStep :
    Inv Config.here softErrorState ∧ step softErrorState = .next { softErrorState with inputs := [], err := .none } := by
  have h := (bufBytes_bounds Config.here).1
  have ha : RxAccepted Config.here softErrorState := ⟨h, .inl (by decide)⟩
  refine ⟨⟨by decide, Memory.below_write _ _ _ _ h rfl, .inr ha, fun _ => ⟨ha, by decide⟩, by decide, by decide, by decide⟩, rfl⟩

end Sys2Proof.Tests.Slice0
end

/-! # The command word: decoding and the use of ARG (spec/30_encoding.md R70 to R74) -/

section

namespace Sys2Proof

/-! ## The opcode map -/

/-- The opcode map read in both directions. -/
theorem commandOf_eq_some_iff {opc : Byte} {arg : Half} {i : Instr} :
    commandOf opc arg = some i ↔ opc = opcodeOf i ∧ arg = i.arg := by
  constructor
  · intro h
    unfold commandOf at h
    split_ifs at h <;> cases h <;> exact ⟨‹opc = _›, rfl⟩
  · rintro ⟨rfl, rfl⟩
    cases i <;> rfl

/-- The seven OPC values are those of the commands, at any ARG. -/
theorem mem_legalOpcodes_iff {opc : Byte} (arg : Half) :
    opc ∈ legalOpcodes ↔ ∃ i, opc = opcodeOf i ∧ arg = i.arg := by
  constructor
  · intro h
    simp only [legalOpcodes, List.mem_cons, List.not_mem_nil, or_false] at h
    obtain rfl | rfl | rfl | rfl | rfl | rfl | rfl := h
    · exact ⟨.nop arg, rfl, rfl⟩
    · exact ⟨.crcClear arg, rfl, rfl⟩
    · exact ⟨.crcWord arg, rfl, rfl⟩
    · exact ⟨.crcByte arg, rfl, rfl⟩
    · exact ⟨.encode arg, rfl, rfl⟩
    · exact ⟨.decode arg, rfl, rfl⟩
    · exact ⟨.srst arg, rfl, rfl⟩
  · rintro ⟨i, rfl, -⟩
    cases i <;> simp [opcodeOf, legalOpcodes]

/-! ## The decoder -/

/-- What the decoder reads: RSV, OPC and ARG, and nothing else (R71, R72). -/
theorem decode_eq_ok_iff {v : Word} {i : Instr} :
    decode v = .ok i ↔ rsvField v = 0 ∧ opcField v = opcodeOf i ∧ argField v = i.arg := by
  rw [← commandOf_eq_some_iff]
  unfold decode
  split
  · next hr => cases commandOf (opcField v) (argField v) <;> simp [hr]
  · next hr => exact iff_of_false nofun fun h => hr h.1

/-- The legal words (R71). -/
theorem exists_decode_eq_ok_iff {v : Word} :
    (∃ i, decode v = .ok i) ↔ rsvField v = 0 ∧ opcField v ∈ legalOpcodes := by
  simp only [decode_eq_ok_iff, mem_legalOpcodes_iff (argField v), exists_and_left]

/-! ## Bits 15:0 of a word -/

/-- The mask 0x0000FFFF of every row of the opcode table compares RSV and OPC (R72). -/
theorem and_rowMask_eq_iff {v : Word} {opc : Byte} :
    v &&& 0x0000FFFF = opc.zeroExtend 32 ↔ rsvField v = 0 ∧ opcField v = opc := by
  have hmask : (v &&& 0x0000FFFF).toNat = v.toNat % 2 ^ 16 := Nat.and_two_pow_sub_one_eq_mod v.toNat 16
  rw [← BitVec.toNat_inj, hmask]
  simp only [rsvField, opcField, ← BitVec.toNat_inj, BitVec.extractLsb'_toNat, BitVec.toNat_setWidth,
    BitVec.zeroExtend, BitVec.ofNat_eq_ofNat, BitVec.toNat_ofNat, Nat.shiftRight_eq_div_pow, Nat.reducePow]
  omega

/-- A word in a command's row of the opcode table decodes to that command (R72). -/
theorem decode_of_row {v : Word} (i : Instr) (hrow : v &&& 0x0000FFFF = (opcodeOf i).zeroExtend 32)
    (harg : argField v = i.arg) : decode v = .ok i := by
  obtain ⟨hr, ho⟩ := and_rowMask_eq_iff.1 hrow
  exact decode_eq_ok_iff.2 ⟨hr, ho, harg⟩

/-- RSV is the high byte of bits 15:0. -/
theorem rsvField_eq (v : Word) : rsvField v = (v.extractLsb' 0 16).extractLsb' 8 8 :=
  (BitVec.extractLsb'_extractLsb'_of_le (by decide)).symm

/-- OPC is the low byte of bits 15:0. -/
theorem opcField_eq (v : Word) : opcField v = (v.extractLsb' 0 16).extractLsb' 0 8 :=
  (BitVec.extractLsb'_extractLsb'_of_le (by decide)).symm

/-- ARG[7:0] is `v[23:16]` (R70, R73). -/
theorem argField_lowByte (v : Word) : (argField v).extractLsb' 0 8 = v.extractLsb' 16 8 := by
  ext k hk
  have hk16 : k < 16 := by omega
  simp [argField, hk16]

end Sys2Proof

namespace Sys2Proof.Machine

open Sys2Proof

/-! ## ARG -/

/-- CRC_WORD uses all of ARG (R73, R111). -/
theorem exec_crcWord (arg : Half) (s : State) :
    exec (.crcWord arg) s = .next { s with acc := ocAdd s.acc arg, err := .none } := rfl

/-- CRC_BYTE uses ARG[7:0], zero-extended (R73, R112). -/
theorem exec_crcByte (arg : Half) (s : State) :
    exec (.crcByte arg) s =
      .next { s with acc := ocAdd s.acc ((arg.extractLsb' 0 8).zeroExtend 16), err := .none } := rfl

/-- Every command but CRC_WORD and CRC_BYTE ignores ARG (R73). -/
theorem commandOf_exec_ignores_arg {opc : Byte} (hword : opc ≠ 0x02) (hbyte : opc ≠ 0x03) (a b : Half) (s : State) :
    (commandOf opc a).map (exec · s) = (commandOf opc b).map (exec · s) := by
  unfold commandOf
  split_ifs <;> rfl

/-- What a word does, in terms of its three fields (R71, R72, R74). -/
theorem issueCommand_eq (v : Word) (s : State) :
    issueCommand v s =
      if rsvField v = 0 then
        ((commandOf (opcField v) (argField v)).map (exec · s)).getD (.next (illegalCommand s))
      else .next (illegalCommand s) := by
  unfold issueCommand decode
  split_ifs
  · cases commandOf (opcField v) (argField v) <;> rfl
  · rfl

/-- Two words that agree in bits 15:0 do the same, unless they are CRC_WORD or CRC_BYTE words (R73). -/
theorem issueCommand_ignores_arg {v v' : Word} (hlow : v.extractLsb' 0 16 = v'.extractLsb' 0 16)
    (hword : v &&& 0x0000FFFF ≠ 0x00000002) (hbyte : v &&& 0x0000FFFF ≠ 0x00000003) (s : State) :
    issueCommand v s = issueCommand v' s := by
  have hrsv : rsvField v' = rsvField v := by rw [rsvField_eq, rsvField_eq, hlow]
  have hopc : opcField v' = opcField v := by rw [opcField_eq, opcField_eq, hlow]
  rw [issueCommand_eq, issueCommand_eq, hrsv, hopc]
  split_ifs with hr
  · have hword' : opcField v ≠ 0x02 := fun ho => hword (and_rowMask_eq_iff.2 ⟨hr, ho⟩)
    have hbyte' : opcField v ≠ 0x03 := fun ho => hbyte (and_rowMask_eq_iff.2 ⟨hr, ho⟩)
    rw [commandOf_exec_ignores_arg hword' hbyte']
  · rfl

/-- An illegal word runs the illegal-command rule (R74, R172). -/
theorem issueCommand_of_not_ok {v : Word} (h : ∀ i, decode v ≠ .ok i) (s : State) :
    issueCommand v s = .next (illegalCommand s) := by
  cases hd : decode v with
  | ok i => exact absurd hd (h i)
  | error e => exact issueCommand_error hd s

/-! ## The statements -/

/-- Settles O2: the decoder is characterised by the three fields (`decode_eq_ok_iff`), and a row's mask compares two of
them (`and_rowMask_eq_iff`). -/
theorem decodeFollowsTheOpcodeMap : Obligations.DecodeFollowsTheOpcodeMap := by
  refine ⟨fun v => exists_decode_eq_ok_iff, fun v => ⟨?_, ?_, ?_, ?_, ?_, ?_, ?_⟩,
    fun v s => ⟨fun i hi => issueCommand_ok hi s, fun h => issueCommand_of_not_ok h s⟩⟩
  all_goals exact fun hrow => decode_of_row _ hrow rfl

/-- Settles O5: the two CRC rows decode to their commands, and every other word's effect depends on RSV and OPC alone
(`issueCommand_ignores_arg`). -/
theorem argMattersOnlyToTheCrcWords : Obligations.ArgMattersOnlyToTheCrcWords := by
  refine ⟨fun v s hrow => ?_, fun v s hrow => ?_,
    fun _ _ s hlow hword hbyte => issueCommand_ignores_arg hlow hword hbyte s⟩
  · rw [issueCommand_ok (decode_of_row (.crcWord (argField v)) hrow rfl), exec_crcWord]
    rfl
  · rw [issueCommand_ok (decode_of_row (.crcByte (argField v)) hrow rfl), exec_crcByte, argField_lowByte]

end Sys2Proof.Machine

end

/-! # The streaming checksum and the words of a frame (spec/40_crc16.md) -/

section

namespace Sys2Proof.Machine

open Sys2Proof

/-! ## `oc_add` -/

/-- Adding the zero word changes nothing (R106). -/
theorem ocAdd_zero (a : Half) : ocAdd a 0 = a := by
  have ha := a.isLt
  have hzero : (0 : Half).toNat = 0 := rfl
  apply BitVec.eq_of_toNat_eq
  rw [ocAdd_toNat, hzero]
  omega

/-! ## The streaming commands -/

/-- CRC_CLEAR ignores ARG (R110). -/
theorem exec_crcClear (arg : Half) (s : State) :
    exec (.crcClear arg) s = .next { s with acc := 0, err := .none } := rfl

/-- CRC_OUT is the complement of ACC (R26). -/
theorem regRead_crcOut (s : State) : regRead s 0x10 = (0 : Half) ++ ~~~ s.acc := rfl

/-! ## The words of a byte list -/

@[simp] theorem pairWords_length (b : List Byte) : (pairWords b).length = b.length / 2 := by
  simp [pairWords]

/-- The pairs of a list that begins with a pair. -/
theorem pairWords_cons_cons (lo hi : Byte) (rest : List Byte) :
    pairWords (lo :: hi :: rest) = (hi ++ lo) :: pairWords rest := by
  have hlen : (lo :: hi :: rest).length / 2 = rest.length / 2 + 1 := Nat.add_div_right rest.length Nat.two_pos
  rw [pairWords, hlen, List.range_succ_eq_map, List.map_cons, List.map_map]
  rfl

/-- The words of a byte list are its pairs, then the words of the at most one byte left over (R101). -/
theorem frameWords_eq_pairWords_append (o : OddTail) (b : List Byte) :
    frameWords o b = pairWords b ++ frameWords o (b.drop (2 * (b.length / 2))) := by
  induction b using List.twoStepInduction with
  | nil => rfl
  | singleton x => simp [pairWords]
  | cons_cons lo hi rest ih _ =>
    have hlen : 2 * ((lo :: hi :: rest).length / 2) = 2 * (rest.length / 2) + 2 := by
      rw [List.length_cons, List.length_cons]
      omega
    rw [frameWords_cons_cons, pairWords_cons_cons, hlen, ih]
    rfl

/-- The words beyond the pairs are those of the bytes beyond the pairs. -/
theorem frameWords_drop_pairs (o : OddTail) (b : List Byte) :
    (frameWords o b).drop (b.length / 2) = frameWords o (b.drop (2 * (b.length / 2))) := by
  conv_lhs => rw [frameWords_eq_pairWords_append]
  exact List.drop_left' (pairWords_length b)

theorem frameWords_take_pairs (o : OddTail) (b : List Byte) : (frameWords o b).take (b.length / 2) = pairWords b := by
  rw [frameWords_eq_pairWords_append]
  exact List.take_left' (pairWords_length b)

/-- In a list of odd length the last byte is left over. -/
theorem drop_pairs_of_odd {b : List Byte} (h : b.length % 2 = 1) :
    b.drop (2 * (b.length / 2)) = [byteAt b (b.length - 1)] := by
  have hlast : 2 * (b.length / 2) = b.length - 1 := by omega
  have hlt : b.length - 1 < b.length := by omega
  rw [hlast, List.drop_eq_getElem_cons hlt, List.drop_of_length_le (by omega), byteAt, List.getD_eq_getElem _ _ hlt]

/-- In a list of even length nothing is left over. -/
theorem frameWords_length_of_even (o : OddTail) {b : List Byte} (h : b.length % 2 = 0) :
    (frameWords o b).length = b.length / 2 := by
  have hlen : 2 * (b.length / 2) = b.length := by omega
  rw [frameWords_eq_pairWords_append, hlen, List.drop_length, frameWords_nil, List.append_nil, pairWords_length]

/-- A word with high byte 0 is its low byte, zero-extended (R101, R112). -/
theorem zero_append_byte (b : Byte) : (0x00 : Byte) ++ b = b.zeroExtend 16 := by
  apply BitVec.eq_of_toNat_eq
  have hb := b.isLt
  rw [word_toNat, BitVec.zeroExtend, BitVec.toNat_setWidth_of_le (by decide)]
  simp

/-! ## ENCODE and DECODE keep away from ACC (R104) -/

theorem afterRead_update_acc (s : State) (x : Half) (i n : Nat) :
    afterRead { s with acc := x } i n = { afterRead s i n with acc := x } := by
  rw [afterRead_eq, afterRead_eq]

theorem afterPayloadRead_update_acc (s : State) (x : Half) :
    afterPayloadRead { s with acc := x } = { afterPayloadRead s with acc := x } := by
  have hdraws : (afterPayloadRead { s with acc := x }).draws = (afterPayloadRead s).draws := by
    cases hm : s.mode <;> simp [afterPayloadRead, hm, afterRead_eq]
  rw [afterPayloadRead_eq, afterPayloadRead_eq s, hdraws]

theorem acceptFrame_update_acc (cfg : Config) (m : Mode) (f : List Byte) (s : State) (x : Half) :
    acceptFrame cfg m f { s with acc := x } = { acceptFrame cfg m f s with acc := x } := by
  cases m <;> rfl

/-- ENCODE from a changed ACC is ENCODE, then the same change. -/
theorem encodeFrame_update_acc (cfg : Config) (s : State) (x : Half) :
    encodeFrame cfg { s with acc := x } = { encodeFrame cfg s with acc := x } := by
  have hover : txOverflows cfg { s with acc := x } = txOverflows cfg s := rfl
  unfold encodeFrame
  rw [hover, afterPayloadRead_update_acc]
  split <;> rfl

/-- DECODE from a changed ACC is DECODE, then the same change. -/
theorem decodeFrame_update_acc (cfg : Config) (s : State) (x : Half) :
    decodeFrame cfg { s with acc := x } = { decodeFrame cfg s with acc := x } := by
  have hframe : memRead { s with acc := x } 0 s.flen.toNat = memRead s 0 s.flen.toNat := rfl
  simp only [decodeFrame, hframe, afterRead_update_acc, acceptFrame_update_acc]
  split
  · rfl
  · split <;> rfl

/-! ## The statements -/

/-- Settles O19: the words are the pairs, then the words of the bytes left over (`frameWords_eq_pairWords_append`). -/
theorem frameWordsArePairsAndTail : Obligations.FrameWordsArePairsAndTail := by
  refine ⟨fun o b => ?_, fun b hodd => ?_, fun o b heven => frameWords_length_of_even o heven⟩
  · rw [frameWords_take_pairs, pairWords, List.map_map]
    refine List.map_congr_left fun k _ => ?_
    rw [Function.comp_apply, word_toNat]
    omega
  · rw [frameWords_drop_pairs, frameWords_drop_pairs, drop_pairs_of_odd hodd, frameWords_singleton_padZero,
      frameWords_singleton_ignore, zero_append_byte]
    exact ⟨rfl, rfl⟩

/-- Settles O25: the streaming commands' effects do not name MODE, and changing ACC before ENCODE or DECODE is changing
it after. -/
theorem twoCrcPathsDoNotMeet : Obligations.TwoCrcPathsDoNotMeet :=
  ⟨fun _ arg _ => ⟨exec_crcClear arg _, exec_crcWord arg _, exec_crcByte arg _⟩,
    fun cfg s x => ⟨encodeFrame_update_acc cfg s x, decodeFrame_update_acc cfg s x⟩⟩

/-- Settles O14: the words of the row decode to CRC_CLEAR, and CRC_OUT is the complement of ACC. -/
theorem crcClearZeroesTheSum : Obligations.CrcClearZeroesTheSum := by
  have hout : (0 : Half) ++ ~~~(0 : Half) = (0x0000FFFF : Word) := by decide
  refine ⟨exec_crcClear, fun v s hrow => ?_, fun s => (regRead_crcOut _).trans hout⟩
  rw [issueCommand_ok (decode_of_row (.crcClear (argField v)) hrow rfl), exec_crcClear]

/-- Settles O15: the words of the row are those of `argMattersOnlyToTheCrcWords`; the corner values are computed. -/
theorem crcWordAddsArg : Obligations.CrcWordAddsArg := by
  obtain ⟨hword, -, -⟩ := argMattersOnlyToTheCrcWords
  exact ⟨exec_crcWord, hword, by decide, by decide, by decide, ocAdd_zero, by decide, by decide⟩

/-- Settles O16: the words of the row are those of `argMattersOnlyToTheCrcWords`; the low byte of 0xAB12 is 0x12. -/
theorem crcByteAddsTheLowByte : Obligations.CrcByteAddsTheLowByte := by
  obtain ⟨-, hbyte, -⟩ := argMattersOnlyToTheCrcWords
  have hlow : ((0xAB12 : Half).extractLsb' 0 8).zeroExtend 16 = 0x0012 := by decide
  exact ⟨exec_crcByte, hbyte, fun s => by rw [exec_crcByte, hlow, exec_crcWord], by decide, by decide⟩

/-- Settles O17: the model's remainder and quotient by 0x10000 are the rule's mask and shift. -/
theorem ocAddIsEndAroundCarry : Obligations.OcAddIsEndAroundCarry := by
  intro a w
  have hmask : (a.toNat + w.toNat) &&& 0xFFFF = (a.toNat + w.toNat) % 0x10000 := Nat.and_two_pow_sub_one_eq_mod _ 16
  rw [ocAdd_toNat, hmask, Nat.shiftRight_eq_div_pow]

end Sys2Proof.Machine

end

/-! # ENCODE and DECODE: the checks, the header and the captured fields (spec/41_frame_codec.md) -/

section

namespace Sys2Proof.Machine

open Sys2Proof

/-! ## The two commands -/

/-- ENCODE runs at the parameters of the QFC and ignores ARG (R130). -/
theorem exec_encode (arg : Half) (s : State) : exec (.encode arg) s = .next (encodeFrame Config.here s) := rfl

/-- DECODE runs at the parameters of the QFC and ignores ARG (R134). -/
theorem exec_decode (arg : Half) (s : State) : exec (.decode arg) s = .next (decodeFrame Config.here s) := rfl

/-! ## ENCODE: the outcomes -/

/-- A 16-bit value is what its number narrows to. -/
theorem ofNat_eq_of_toNat {n : Half} {k : Nat} (h : n.toNat = k) : BitVec.ofNat 16 k = n := by
  rw [← h, BitVec.ofNat_toNat, BitVec.setWidth_eq]

/-- A frame that is too long for the length field or for FB is reported, and nothing else happens (R131). -/
theorem encodeFrame_of_overflow {cfg : Config} {s : State} (h : 0xFFFF < txFrameLen s ∨ cfg.bufBytes < txFrameLen s) :
    encodeFrame cfg s = { s with err := .lenOverflow } := by
  rcases encodeFrame_cases cfg s with ⟨-, heq⟩ | ⟨hfits, -⟩
  · exact heq
  · rw [(txOverflows_iff cfg s).2 h] at hfits
    contradiction

/-- A frame of length `n` that fits in FB is built; it then fits the length field as well, since BUF_BYTES ≤ 65535
(R131). -/
theorem encodeFrame_of_fits {cfg : Config} {s : State} {n : Half} (hn : n.toNat = txFrameLen s)
    (hfits : txFrameLen s ≤ cfg.bufBytes) :
    encodeFrame cfg s =
      { s with
        fb := Memory.write s.fb 0 (txHeaderBytes cfg s), flen := n, err := .none
        draws := (afterPayloadRead s).draws } := by
  have hmax := (bufBytes_bounds cfg).2
  rcases encodeFrame_cases cfg s with ⟨hover, -⟩ | ⟨-, heq⟩
  · have := (txOverflows_iff cfg s).1 hover
    omega
  · rw [heq, ofNat_eq_of_toNat hn]

/-! ## ENCODE: the header in FB -/

/-- A byte of a list written from index 0 on reads back. -/
theorem Memory.get?_write_zero {m : Memory} {bs : List Byte} {k : Nat} {b : Byte} (h : bs[k]? = some b) :
    Memory.get? (Memory.write m 0 bs) k = some b := by
  obtain ⟨hk, rfl⟩ := List.getElem?_eq_some_iff.1 h
  simpa using Memory.get?_write_of_mem m bs 0 k hk

/-- ENCODE's header leaves every byte from HDR_LEN on (R53). -/
theorem get?_write_txHeaderBytes_of_ge (cfg : Config) (s : State) {a : Nat} (h : hdrLen s.mode ≤ a) :
    Memory.get? (Memory.write s.fb 0 (txHeaderBytes cfg s)) a = Memory.get? s.fb a :=
  Memory.get?_write_of_ge _ _ (by rw [txHeaderBytes_length]; omega)

/-- Bytes 0 to 9 of a CPS or no-CRC frame of length `n` (R132). -/
theorem txHeader_eq {s : State} {n : Half} (hn : n.toNat = txFrameLen s) :
    txHeader s =
      [0x7E, s.txType, 0x00, s.txFlags, s.txSrc, s.txDest, s.txSeq.extractLsb' 8 8, s.txSeq.extractLsb' 0 8,
        n.extractLsb' 8 8, n.extractLsb' 0 8] := by
  rw [txHeader, ofNat_eq_of_toNat hn]
  rfl

theorem txHeaderBytes_cps (cfg : Config) {s : State} (hm : s.mode = .cps) :
    txHeaderBytes cfg s =
      txHeader s ++
        le16 (crc16Cps cfg.oddTail (txHeader s ++ crcPlaceholder ++ memRead s 12 s.txPlen.toNat)) := by
  simp only [txHeaderBytes, txPayload, hm, hdrLen]

/-- CPS and no-CRC frames begin with the same ten bytes (R132). -/
theorem txHeaderBytes_eq_append (cfg : Config) {s : State} (hm : s.mode ≠ .fw) :
    ∃ slot, txHeaderBytes cfg s = txHeader s ++ slot := by
  cases h : s.mode with
  | cps => exact ⟨_, txHeaderBytes_cps cfg h⟩
  | nocrc => exact ⟨[], by simp only [txHeaderBytes, h, List.append_nil]⟩
  | fw => exact absurd h hm

/-- The header of a firmware frame whose length field is `L` (R133). -/
theorem txHeaderBytes_fw {cfg : Config} {s : State} {L : Half} (hm : s.mode = .fw)
    (hL : L.toNat = s.txPlen.toNat + cfg.fwLenBase) :
    txHeaderBytes cfg s =
      le16 L ++ le16 (cfg.fwCrc16 (le16 L ++ crcPlaceholder ++ memRead s 4 s.txPlen.toNat)) := by
  simp only [txHeaderBytes, txFwLength, txPayload, hm, hdrLen, ofNat_eq_of_toNat hL]

/-! ## DECODE: the checks -/

@[simp] theorem rxFrame_length (s : State) : (rxFrame s).length = s.flen.toNat := memRead_length s 0 _

/-- The statements' marker condition is the check DECODE makes (R135). -/
theorem markerFits_iff (s : State) :
    MarkerFits s ↔ (hasMarker s.mode = true → (rxFrame s).length ≠ 0 ∧ byteAt (rxFrame s) 0 = startMarker) := by
  have hlen : s.flen ≠ 0 ↔ (rxFrame s).length ≠ 0 := by
    rw [rxFrame_length, not_iff_not, ← BitVec.toNat_inj]
    rfl
  rw [MarkerFits, hlen]
  cases s.mode <;> simp [hasMarker, startMarker]

/-- The statements' length condition is the check DECODE makes (R136). -/
theorem lengthFits_iff (cfg : Config) (s : State) :
    LengthFits cfg s ↔ lengthAgrees cfg s.mode (rxFrame s) = true := by
  cases h : s.mode <;> simp [LengthFits, lengthAgrees, h]

/-- BAD_MARKER is reported for a bad marker and for nothing else, whatever the length (R135, R183). -/
theorem frameError_eq_badMarker_iff (cfg : Config) (s : State) :
    frameError cfg s.mode (rxFrame s) = some .badMarker ↔ ¬ MarkerFits s := by
  have hcheck : (hasMarker s.mode && ((rxFrame s).length == 0 || byteAt (rxFrame s) 0 != startMarker)) = true ↔
      ¬ MarkerFits s := by
    rw [markerFits_iff, Bool.and_eq_true, Bool.or_eq_true, beq_iff_eq, bne_iff_ne]
    tauto
  rw [frameError]
  split_ifs with hbad
  · exact iff_of_true rfl (hcheck.1 hbad)
  all_goals exact iff_of_false nofun (mt hcheck.2 hbad)

/-- DECODE accepts a frame in FB exactly if the three checks pass (R135, R136). -/
theorem frameError_rxFrame_eq_none_iff (cfg : Config) (s : State) :
    frameError cfg s.mode (rxFrame s) = none ↔
      MarkerFits s ∧ hdrLen s.mode ≤ s.flen.toNat ∧ LengthFits cfg s := by
  rw [frameError_none_iff, ← markerFits_iff, ← lengthFits_iff, rxFrame_length]

/-- Behind a good marker, a short frame and a wrong declared length are the same error (R136). -/
theorem frameError_of_markerFits {cfg : Config} {s : State} (hmark : MarkerFits s)
    (h : s.flen.toNat < hdrLen s.mode ∨ ¬ LengthFits cfg s) :
    frameError cfg s.mode (rxFrame s) = some .lengthMismatch := by
  cases he : frameError cfg s.mode (rxFrame s) with
  | none =>
    obtain ⟨-, hhdr, hlen⟩ := (frameError_rxFrame_eq_none_iff cfg s).1 he
    exact absurd h (by simp [hhdr, hlen])
  | some e =>
    rcases frameError_cases cfg s.mode _ e he with rfl | rfl
    · exact absurd hmark ((frameError_eq_badMarker_iff cfg s).1 he)
    · rfl

/-! ## DECODE: the outcomes -/

/-- A frame that lies beyond FB is rejected unread (R136). -/
theorem decodeFrame_of_overflow {cfg : Config} {s : State} (h : cfg.bufBytes < s.flen.toNat) :
    decodeFrame cfg s = { s with err := .lenOverflow, rxv := false, crcm := false } := by
  rcases decodeFrame_cases cfg s with ⟨-, heq⟩ | ⟨hle, -⟩ | ⟨hle, -⟩
  · exact heq
  · omega
  · omega

/-- A frame in FB that fails a check is rejected with that check's error (R141). -/
theorem decodeFrame_of_frameError {cfg : Config} {s : State} {e : ErrCode} (hn : s.flen.toNat ≤ cfg.bufBytes)
    (he : frameError cfg s.mode (rxFrame s) = some e) :
    decodeFrame cfg s =
      { s with err := e, rxv := false, crcm := false, draws := (afterRead s 0 s.flen.toNat).draws } := by
  rw [rxFrame] at he
  rcases decodeFrame_cases cfg s with ⟨hgt, -⟩ | ⟨-, e', he', heq⟩ | ⟨-, hnone, -⟩
  · omega
  · obtain rfl : e = e' := Option.some.inj (he.symm.trans he')
    exact heq
  · exact absurd (he.symm.trans hnone) nofun

/-- A frame in FB that passes the checks is accepted (R134). -/
theorem decodeFrame_of_fits {cfg : Config} {s : State} (hn : s.flen.toNat ≤ cfg.bufBytes) (hmark : MarkerFits s)
    (hhdr : hdrLen s.mode ≤ s.flen.toNat) (hlen : LengthFits cfg s) :
    decodeFrame cfg s = acceptFrame cfg s.mode (rxFrame s) (afterRead s 0 s.flen.toNat) := by
  have hnone := (frameError_rxFrame_eq_none_iff cfg s).2 ⟨hmark, hhdr, hlen⟩
  rw [rxFrame] at hnone ⊢
  rcases decodeFrame_cases cfg s with ⟨hgt, -⟩ | ⟨-, e, he, -⟩ | ⟨-, -, heq⟩
  · omega
  · exact absurd (hnone.symm.trans he) nofun
  · exact heq

/-- An accepted frame: CRCM and ERR say whether the checksums differ (R138 to R140). -/
theorem acceptFrame_eq (cfg : Config) (m : Mode) (f : List Byte) (s : State) :
    acceptFrame cfg m f s =
      { captureFields m f s with
        rxDecl := declaredCrc m f, rxCalc := computedCrc cfg m f, rxv := true
        crcm := declaredCrc m f != computedCrc cfg m f
        err := if declaredCrc m f = computedCrc cfg m f then .none else .crc16Mismatch } := by
  simp only [acceptFrame, setErr, setRxFlags, ne_eq, ite_not]

/-- The payload length DECODE reports, `n - HDR_LEN`, does not wrap around (R138, R139). -/
theorem ofNat_rxFrame_length_sub {s : State} {k : Nat} (h : k ≤ s.flen.toNat) :
    BitVec.ofNat 16 ((rxFrame s).length - k) = s.flen - BitVec.ofNat 16 k := by
  have hk : k < 2 ^ 16 := h.trans_lt s.flen.isLt
  rw [rxFrame_length, ← BitVec.ofNat_sub_ofNat_of_le _ _ hk h, ofNat_eq_of_toNat rfl]

/-- The header fields of an accepted CPS or no-CRC frame (R138). -/
theorem captureFields_rxFrame {cfg : Config} {s : State} (hm : s.mode ≠ .fw) (hhdr : hdrLen s.mode ≤ s.flen.toNat)
    (hlen : LengthFits cfg s) (t : State) :
    captureFields s.mode (rxFrame s) t =
      { t with
        rxType := byteAt (rxFrame s) 1, rxFlags := byteAt (rxFrame s) 3
        rxSrc := byteAt (rxFrame s) 4, rxDest := byteAt (rxFrame s) 5
        rxSeq := rdBE16 (rxFrame s) 6, rxDlen := s.flen, rxRsvd := byteAt (rxFrame s) 2
        rxPoff := BitVec.ofNat 8 (hdrLen s.mode), rxPlen := s.flen - BitVec.ofNat 16 (hdrLen s.mode) } := by
  have hdlen : rdBE16 (rxFrame s) 8 = s.flen := by
    rcases hlen with ⟨-, h⟩ | ⟨hfw, -⟩
    · exact BitVec.eq_of_toNat_eq h
    · exact absurd hfw hm
  rw [← ofNat_rxFrame_length_sub hhdr, ← hdlen]
  cases h : s.mode with
  | cps => rfl
  | nocrc => rfl
  | fw => exact absurd h hm

/-- The header fields of an accepted firmware frame: those it lacks become 0 (R139). -/
theorem captureFields_rxFrame_fw {s : State} (hm : s.mode = .fw) (hhdr : 4 ≤ s.flen.toNat) (t : State) :
    captureFields s.mode (rxFrame s) t =
      { t with
        rxType := 0, rxFlags := 0, rxSrc := 0, rxDest := 0, rxSeq := 0, rxDlen := rdLE16 (rxFrame s) 0, rxRsvd := 0
        rxPoff := 4, rxPlen := s.flen - 4 } := by
  have hplen : BitVec.ofNat 16 ((rxFrame s).length - 4) = s.flen - 4 := ofNat_rxFrame_length_sub hhdr
  rw [hm, ← hplen]
  rfl

theorem declaredCrc_of_ne_fw {m : Mode} (hm : m ≠ .fw) (f : List Byte) :
    declaredCrc m f = if m = .cps then rdLE16 f 10 else 0 := by
  cases m with
  | cps => rfl
  | nocrc => rfl
  | fw => exact absurd rfl hm

theorem computedCrc_of_ne_fw (cfg : Config) {m : Mode} (hm : m ≠ .fw) (f : List Byte) :
    computedCrc cfg m f =
      if m = .cps then crc16Cps cfg.oddTail (f.take 10 ++ [0x00, 0x00] ++ f.drop 12) else 0 := by
  cases m with
  | cps => rfl
  | nocrc => rfl
  | fw => exact absurd rfl hm

/-! ## The statements -/

/-- Settles O26: the two outcomes of ENCODE, `encodeFrame_of_overflow` and `encodeFrame_of_fits`. -/
theorem encodeChecksTheLength : Obligations.EncodeChecksTheLength := by
  refine ⟨exec_encode, fun cfg s => ⟨encodeFrame_of_overflow, fun ⟨hmax, hbuf⟩ => ?_⟩⟩
  have hn : (BitVec.ofNatLT (txFrameLen s) (Nat.lt_succ_of_le hmax) : Half).toNat = txFrameLen s :=
    BitVec.toNat_ofNatLT _ _
  rw [encodeFrame_of_fits hn hbuf]
  exact ⟨hn, rfl⟩

/-- Settles O27: the header begins with the ten bytes that both modes share (`txHeaderBytes_eq_append`), and in CPS mode
the checksum follows them (`txHeaderBytes_cps`). -/
theorem encodeWritesTheCpsAndNocrcHeader : Obligations.EncodeWritesTheCpsAndNocrcHeader := by
  intro arg s n hm hn hbuf
  have hheader := txHeader_eq hn
  obtain ⟨slot, hslot⟩ := txHeaderBytes_eq_append Config.here hm
  rw [hheader] at hslot
  have hbyte {k : Nat} {b : Byte} (h : (txHeaderBytes Config.here s)[k]? = some b) :
      Memory.get? (Memory.write s.fb 0 (txHeaderBytes Config.here s)) k = some b := Memory.get?_write_zero h
  refine ⟨_, _, by rw [exec_encode, encodeFrame_of_fits hn (hn.ge.trans hbuf)],
    ?_, ?_, ?_, ?_, ?_, ?_, ?_, ?_, ?_, ?_, fun hcps => ?crc,
    fun _ => get?_write_txHeaderBytes_of_ge Config.here s⟩
  case crc =>
    have hbytes := txHeaderBytes_cps Config.here hcps
    rw [hheader] at hbytes
    exact ⟨hbyte (by rw [hbytes]; rfl), hbyte (by rw [hbytes]; rfl)⟩
  all_goals exact hbyte (by rw [hslot]; rfl)

/-- Settles O28: the header is `LE16(L)` and the checksum (`txHeaderBytes_fw`); `L` fits in 16 bits because
FW_LEN_BASE ≤ HDR_LEN and the frame fits in FB. -/
theorem encodeWritesTheFirmwareHeader : Obligations.EncodeWritesTheFirmwareHeader := by
  intro arg s n hm hn hbuf
  have hlen : n.toNat = txFrameLen s := by rw [hn, txFrameLen, hm, hdrLen]
  have hlt : s.txPlen.toNat + Config.here.fwLenBase < 2 ^ 16 := by
    have hbase := fwLenBase_cases Config.here
    have hmax := n.isLt
    omega
  have hL := BitVec.toNat_ofNatLT _ hlt
  have hbytes := txHeaderBytes_fw hm hL
  refine ⟨_, _, _, hL, by rw [exec_encode, encodeFrame_of_fits hlen (hlen.ge.trans hbuf)], ⟨?_, ?_, ?_, ?_⟩,
    fun a ha => get?_write_txHeaderBytes_of_ge Config.here s (by rwa [hm])⟩
  all_goals exact Memory.get?_write_zero (by rw [hbytes]; rfl)

/-- Settles O32: each rejection is a failing check (`frameError_eq_badMarker_iff`, `frameError_of_markerFits`), and a
failing check clears the two flags (`decodeFrame_of_frameError`). -/
theorem decodeRejectsInOrder : Obligations.DecodeRejectsInOrder :=
  ⟨exec_decode, fun _ _ => decodeFrame_of_overflow,
    fun cfg s hn hmark => ⟨_, decodeFrame_of_frameError hn ((frameError_eq_badMarker_iff cfg s).2 hmark)⟩,
    fun _ _ hn hmark h => ⟨_, decodeFrame_of_frameError hn (frameError_of_markerFits hmark h)⟩⟩

/-- Settles O33: the frame is accepted (`decodeFrame_of_fits`), which captures its fields (`captureFields_rxFrame`) and
its checksums. -/
theorem decodeCapturesCpsAndNocrcFields : Obligations.DecodeCapturesCpsAndNocrcFields := by
  intro arg s hm hn hhdr hmark hlen
  refine ⟨(afterRead s 0 s.flen.toNat).draws, ?_⟩
  rw [exec_decode, decodeFrame_of_fits hn hmark hhdr hlen, acceptFrame_eq, captureFields_rxFrame hm hhdr hlen,
    declaredCrc_of_ne_fw hm, computedCrc_of_ne_fw _ hm, afterRead_eq]

/-- Settles O34: the frame is accepted (`decodeFrame_of_fits`), which captures its fields
(`captureFields_rxFrame_fw`); its checksums are those of the FW mode by definition. -/
theorem decodeCapturesFirmwareFields : Obligations.DecodeCapturesFirmwareFields := by
  intro arg s hm hn hhdr hlen
  have hdecl : declaredCrc s.mode (rxFrame s) = rdLE16 (rxFrame s) 2 := by rw [hm]; rfl
  have hcalc : computedCrc Config.here s.mode (rxFrame s) =
      Config.here.fwCrc16 ((rxFrame s).take 2 ++ [0x00, 0x00] ++ (rxFrame s).drop 4) := by rw [hm]; rfl
  refine ⟨(afterRead s 0 s.flen.toNat).draws, ?_⟩
  rw [exec_decode, decodeFrame_of_fits hn (.inl hm) (by rwa [hm]) hlen, acceptFrame_eq,
    captureFields_rxFrame_fw hm hhdr, hdecl, hcalc, afterRead_eq]

end Sys2Proof.Machine

end

/-! # The control commands and the illegal words (spec/42_control.md R171, R172) -/

section

namespace Sys2Proof.Machine

open Sys2Proof

/-! ## Illegal words -/

/-- The reserved ranges of R74 are what the opcode map of R72 leaves out. -/
theorem reservedOpcode_iff_not_mem {opc : Byte} : ReservedOpcode opc ↔ opc ∉ legalOpcodes := by
  have hlt := opc.isLt
  simp only [ReservedOpcode, legalOpcodes, List.mem_cons, List.not_mem_nil, or_false, ← BitVec.toNat_inj,
    BitVec.ofNat_eq_ofNat, BitVec.toNat_ofNat]
  omega

/-- A word outside R71 sets ERR to ILLEGAL_CMD, and that is its whole effect (R172). -/
theorem issueCommand_of_reserved {v : Word} (h : rsvField v ≠ 0 ∨ ReservedOpcode (opcField v)) (s : State) :
    issueCommand v s = .next { s with err := .illegalCmd } := by
  have hnot : ∀ i, decode v ≠ .ok i := fun i hi => by
    obtain ⟨hrsv, hopc⟩ := exists_decode_eq_ok_iff.1 ⟨i, hi⟩
    rcases h with hne | hres
    · exact hne hrsv
    · exact reservedOpcode_iff_not_mem.1 hres hopc
  rw [issueCommand_of_not_ok hnot, illegalCommand_eq]

/-! ## SRST -/

/-- SRST ignores ARG (R171). -/
theorem exec_srst (arg : Half) (s : State) : exec (.srst arg) s = .next (resetRegisters s) := rfl

/-- With every register at its reset value, every register reads as right after a reset (R171, R200). -/
theorem readReg_resetRegisters (s : State) (r : Reg) : readReg (resetRegisters s) r = readReg State.reset r := by
  cases r <;> rfl

/-- The register space after SRST is that of the reset state, offsets with no register included. -/
theorem regRead_resetRegisters (s : State) (off : Nat) : regRead (resetRegisters s) off = regRead State.reset off := by
  unfold regRead
  cases regAt off with
  | none => rfl
  | some r => exact readReg_resetRegisters s r

/-! ## The statements -/

/-- Settles O12: an illegal word decodes to no command (`issueCommand_of_reserved`), and the reserved OPC values are the
complement of the opcode map (`reservedOpcode_iff_not_mem`). -/
theorem illegalWordSetsErrAndNothingElse : Obligations.IllegalWordSetsErrAndNothingElse :=
  ⟨fun _ s h => issueCommand_of_reserved h s, fun _ => reservedOpcode_iff_not_mem,
    fun s => ⟨issueCommand_of_reserved (.inl (by decide)) s,
      issueCommand_of_reserved (.inr (.inl (by decide))) s,
      issueCommand_of_reserved (.inr (.inr (by decide))) s⟩⟩

/-- Settles O11: SRST is `resetRegisters`, after which the register space is that of the reset state
(`regRead_resetRegisters`); a hardware reset empties FB beside it (`hardReset_eq`). -/
theorem srstResetsRegistersKeepsFb : Obligations.SrstResetsRegistersKeepsFb := by
  refine ⟨exec_srst, fun v s hrow => ⟨resetRegisters s, ?_, resetRegisters_fb s, regRead_resetRegisters s,
    hardReset_eq s, ?_⟩⟩
  · rw [issueCommand_ok (decode_of_row (.srst (argField v)) hrow rfl), exec_srst]
  · simp only [regRead_resetRegisters]
    decide

end Sys2Proof.Machine

end

/-! # Command words in both directions, and the opcode table (spec/30_encoding.md section 1) -/

section

namespace Sys2Proof

/-! ## Words from their fields -/

/-- A word is its three fields put back together (R70). -/
theorem commandWord_of_fields {v : Word} (hrsv : rsvField v = 0) : commandWord (opcField v) (argField v) = v := by
  calc commandWord (opcField v) (argField v)
      = argField v ++ rsvField v ++ opcField v := by rw [hrsv]; rfl
    _ = v.extractLsb' 8 24 ++ opcField v :=
        congrArg (· ++ opcField v) (BitVec.extractLsb'_append_extractLsb'_eq_extractLsb' rfl)
    _ = v.extractLsb' 0 32 := BitVec.extractLsb'_append_extractLsb'_eq_extractLsb' rfl
    _ = v := BitVec.extractLsb'_eq_self

theorem decode_encode (i : Instr) : decode (encode i) = .ok i := by
  obtain ⟨hopc, hrsv, harg⟩ := Laws.WordForm.fields (opcodeOf i) i.arg
  exact decode_eq_ok_iff.2 ⟨hrsv, hopc, harg⟩

theorem encode_of_decode {v : Word} {i : Instr} (h : decode v = .ok i) : encode i = v := by
  obtain ⟨hrsv, hopc, harg⟩ := decode_eq_ok_iff.1 h
  rw [encode, ← hopc, ← harg, commandWord_of_fields hrsv]

/-! ## The opcode table -/

/-- A row of the table has mask 0x0000FFFF, the OPC of its command as the match, and a command that keeps ARG (R72). -/
theorem opcodeTable_row {row : OpcodeRow} (h : row ∈ opcodeTable) (arg : Half) :
    row.mask = 0x0000FFFF ∧ row.pattern = (opcodeOf (row.make arg)).zeroExtend 32 ∧ (row.make arg).arg = arg := by
  simp only [opcodeTable, List.mem_cons, List.not_mem_nil, or_false] at h
  obtain rfl | rfl | rfl | rfl | rfl | rfl | rfl := h
  all_goals exact ⟨rfl, rfl, rfl⟩

/-- Any two rows have the same mask and different matches. -/
theorem opcodeTable_pairwise : opcodeTable.Pairwise (fun a b => a.mask = b.mask ∧ a.pattern ≠ b.pattern) := by decide

/-! ## The statements -/

/-- Settles O1: the word of a command has the command's fields (`decode_encode`), and a legal word has no others
(`encode_of_decode`). -/
theorem decodeAndEncodeAgree : Obligations.DecodeAndEncodeAgree := ⟨decode_encode, fun _ _ => encode_of_decode⟩

/-- Settles O3: a row's mask compares the two fields that the decoder reads beside ARG (`and_rowMask_eq_iff`), and rows
of one mask with different matches share no word. -/
theorem opcodeTableRowsDecide : Obligations.OpcodeTableRowsDecide := by
  refine ⟨fun row hrow v => ?_, opcodeTable_pairwise.imp fun ⟨hmask, hne⟩ v ⟨ha, hb⟩ => ?_⟩
  · obtain ⟨hmask, hpattern, harg⟩ := opcodeTable_row hrow (argField v)
    rw [hmask, hpattern, and_rowMask_eq_iff, decode_eq_ok_iff, harg, eq_self_iff_true, and_true]
  · exact hne (ha.symm.trans (hmask ▸ hb))

/-- Settles O4: the decoder computes. -/
theorem writtenWordsDecode : Obligations.WrittenWordsDecode :=
  ⟨by decide, by decide, by decide, by decide, by decide, by decide, by decide, by decide, by decide, by decide⟩

end Sys2Proof

end

/-! # One step: what each input does (spec/20_memory.md R50 to R59) -/

section

namespace Sys2Proof.Machine

open Sys2Proof

/-! ## The step of each input -/

/-- A CMD write issues the command word (R23). -/
theorem step_cmdWrite {s : State} {v : Word} {rest : List Input} (h : s.inputs = .host (.regWrite 0x04 v) :: rest) :
    step s = issueCommand v { s with inputs := rest } := step_of_inputs h

/-- A write to any other register stores in that register (R34). -/
theorem step_regWrite {s : State} {r : Reg} {v : Word} {rest : List Input} (hr : r ≠ .cmd)
    (h : s.inputs = .host (.regWrite (regOffset r) v) :: rest) :
    step s = .next (writeReg { s with inputs := rest } r v) := by
  rw [step_of_inputs h, takeInput, perform, regWrite, regAt_regOffset]
  cases r
  case cmd => exact absurd rfl hr
  all_goals rfl

/-- The register space does not show the inputs. -/
theorem regRead_update_inputs (s : State) (rest : List Input) (off : Nat) :
    regRead { s with inputs := rest } off = regRead s off := by
  unfold regRead
  cases regAt off with
  | none => rfl
  | some r => cases r <;> rfl

/-- A register read records the register's value and changes nothing else (R57). -/
theorem step_regRead {s : State} {off : Nat} {rest : List Input} (h : s.inputs = .host (.regRead off) :: rest) :
    step s = .next { s with inputs := rest, recorded := s.recorded ++ [.reg off (regRead s off)] } := by
  rw [step_of_inputs h, takeInput, perform, regRead_update_inputs]
  rfl

/-- A buffer read below BUF_BYTES records the byte, and draws where the byte is UNWRITTEN (R51, U1). -/
theorem step_bufRead {s : State} {i : Nat} {rest : List Input} (hi : i < Config.here.bufBytes)
    (h : s.inputs = .host (.bufRead i) :: rest) :
    step s = .next
      { s with
        inputs := rest, draws := (afterRead s i 1).draws, recorded := s.recorded ++ [.buf i (readByte s i)] } := by
  rw [step_of_inputs h, takeInput, perform, bufReadValue, if_pos hi, bufReadState, if_pos hi, afterRead_eq,
    afterRead_eq]
  rfl

/-- A buffer read at or beyond BUF_BYTES records 0 (R56). -/
theorem step_bufRead_beyond {s : State} {i : Nat} {rest : List Input} (hi : Config.here.bufBytes ≤ i)
    (h : s.inputs = .host (.bufRead i) :: rest) :
    step s = .next { s with inputs := rest, recorded := s.recorded ++ [.buf i 0] } := by
  have hni := Nat.not_lt.2 hi
  rw [step_of_inputs h, takeInput, perform, bufReadValue, if_neg hni, bufReadState, if_neg hni]
  rfl

/-- A buffer write below BUF_BYTES stores its byte (R51). -/
theorem step_bufWrite {s : State} {i : Nat} {b : Byte} {rest : List Input} (hi : i < Config.here.bufBytes)
    (h : s.inputs = .host (.bufWrite i b) :: rest) :
    step s = .next { s with inputs := rest, fb := Memory.set s.fb i b } := by
  rw [step_of_inputs h, takeInput, perform, bufWrite, if_pos hi]

/-- A buffer write at or beyond BUF_BYTES is ignored (R56). -/
theorem step_bufWrite_beyond {s : State} {i : Nat} {b : Byte} {rest : List Input} (hi : Config.here.bufBytes ≤ i)
    (h : s.inputs = .host (.bufWrite i b) :: rest) : step s = .next { s with inputs := rest } := by
  rw [step_of_inputs h, takeInput, perform, bufWrite, if_neg (Nat.not_lt.2 hi)]

theorem step_hardReset {s : State} {rest : List Input} (h : s.inputs = .hardReset :: rest) :
    step s = .next (hardReset { s with inputs := rest }) := step_of_inputs h

/-- A write to an offset with no register is ignored (R55). -/
theorem step_regWrite_unmapped {s : State} {off : Nat} {v : Word} {rest : List Input} (hoff : regAt off = none)
    (h : s.inputs = .host (.regWrite off v) :: rest) : step s = .next { s with inputs := rest } := by
  rw [step_of_inputs h, takeInput, perform, regWrite, hoff]

/-! ## No input stops QFC (R184) -/

/-- NOP ignores ARG (R170). -/
theorem exec_nop (arg : Half) (s : State) : exec (.nop arg) s = .next { s with err := .none } := rfl

/-- The state each command leaves (R72). -/
def commandEffect (i : Instr) (s : State) : State :=
  match i with
  | .nop _ => { s with err := .none }
  | .crcClear _ => { s with acc := 0, err := .none }
  | .crcWord arg => { s with acc := ocAdd s.acc arg, err := .none }
  | .crcByte arg => { s with acc := ocAdd s.acc ((arg.extractLsb' 0 8).zeroExtend 16), err := .none }
  | .encode _ => encodeFrame Config.here s
  | .decode _ => decodeFrame Config.here s
  | .srst _ => resetRegisters s

/-- Every command runs to a next state. -/
theorem exec_eq (i : Instr) (s : State) : exec i s = .next (commandEffect i s) := by
  cases i with
  | nop arg => exact exec_nop arg s
  | crcClear arg => exact exec_crcClear arg s
  | crcWord arg => exact exec_crcWord arg s
  | crcByte arg => exact exec_crcByte arg s
  | encode arg => exact exec_encode arg s
  | decode arg => exact exec_decode arg s
  | srst arg => exact exec_srst arg s

theorem issueCommand_next (v : Word) (s : State) : ∃ t, issueCommand v s = .next t := by
  cases hd : decode v with
  | ok i => exact ⟨_, (issueCommand_ok hd s).trans (exec_eq i s)⟩
  | error e => exact ⟨_, issueCommand_error hd s⟩

theorem regWrite_next (off : Nat) (v : Word) (s : State) : ∃ t, regWrite off v s = .next t := by
  unfold regWrite
  split
  · exact issueCommand_next v s
  · exact ⟨_, rfl⟩
  · exact ⟨_, rfl⟩

theorem perform_next (a : Access) (s : State) : ∃ t, perform a s = .next t := by
  cases a with
  | regWrite off v => exact regWrite_next off v s
  | regRead _ | bufRead _ | bufWrite _ _ => exact ⟨_, rfl⟩

theorem step_next (s : State) : ∃ t, step s = .next t := by
  unfold step stepInputs
  split
  · exact ⟨_, rfl⟩
  · next e rest _ =>
    cases e with
    | host a => exact perform_next a _
    | hardReset => exact ⟨_, rfl⟩

/-! ## The statements -/

/-- Settles O6: a CMD write is `issueCommand` (`step_cmdWrite`), and CMD reads 0. -/
theorem cmdWriteRunsTheCommand : Obligations.CmdWriteRunsTheCommand := by
  refine ⟨fun s v rest h => ⟨fun i hi => ?_, fun e he => ?_⟩, fun s rest h => step_regRead h⟩
  · rw [step_cmdWrite h, issueCommand_ok hi]
  · rw [step_cmdWrite h, issueCommand_error he, illegalCommand_eq]

/-- Settles O7: `withFetchWord` puts a CMD write in front, and taking that input off again gives the state back. -/
theorem fetchWordIsTheNextCommand : Obligations.FetchWordIsTheNextCommand := by
  intro s w
  have hword : BitVec.ofNat 32 (w % 2 ^ 32) = BitVec.ofNat 32 w := BitVec.eq_of_toNat_eq (by simp)
  rw [State.withFetchWord, hword]
  exact step_cmdWrite rfl

/-- Settles O8: the step looks at the inputs first. -/
theorem noInputMeansNoChange : Obligations.NoInputMeansNoChange := by
  intro s h
  rw [step, stepInputs, h]

/-- Settles O9: no access and no command ends in a fault or a refusal (`step_next`). -/
theorem everyStepHasANextState : Obligations.EveryStepHasANextState := step_next

/-- Settles O10: the words of the row decode to NOP. -/
theorem nopClearsErrAndNothingElse : Obligations.NopClearsErrAndNothingElse := by
  refine ⟨exec_nop, fun v s hrow => ?_⟩
  rw [issueCommand_ok (decode_of_row (.nop (argField v)) hrow rfl), exec_nop]

end Sys2Proof.Machine

end

/-! # The registers and the buffer space as the host sees them (spec/10_state.md, spec/20_memory.md) -/

section

namespace Sys2Proof.Machine

open Sys2Proof

/-! ## Register values from their fields -/

@[simp] theorem regRead_regOffset (s : State) (r : Reg) : regRead s (regOffset r) = readReg s r := by
  rw [regRead, regAt_regOffset]

/-- A reserved high part that reads 0 adds nothing to a register's value. -/
theorem toNat_zero_append {k w : Nat} (x : BitVec w) : ((0 : BitVec k) ++ x).toNat = x.toNat := by
  simp [BitVec.toNat_append]

/-- A field stored from bits [w-1:0] of `v` and read back under reserved zeros is `v` masked. -/
theorem zero_append_extractLsb' {k w : Nat} (v : BitVec (k + w)) :
    (0 : BitVec k) ++ v.extractLsb' 0 w = v &&& BitVec.ofNat (k + w) (2 ^ w - 1) := by
  have hmask : 2 ^ w - 1 < 2 ^ (k + w) :=
    (Nat.sub_one_lt (Nat.two_pow_pos w).ne').trans_le (Nat.pow_le_pow_right Nat.two_pos (Nat.le_add_left w k))
  apply BitVec.eq_of_toNat_eq
  rw [toNat_zero_append, BitVec.extractLsb'_toNat, BitVec.toNat_and, BitVec.toNat_ofNat, Nat.mod_eq_of_lt hmask,
    Nat.and_two_pow_sub_one_eq_mod, Nat.shiftRight_zero]

/-! ## MODE -/

/-- A MODE field other than 3 selects the mode of that code (R22). -/
theorem modeOfCode_of_ne_three {c : BitVec 2} (h : c ≠ 3) : ∃ m, modeOfCode c = some m ∧ modeCode m = c := by
  have hcases : c = 0 ∨ c = 1 ∨ c = 2 := by revert c; decide
  obtain rfl | rfl | rfl := hcases
  · exact ⟨.cps, rfl, rfl⟩
  · exact ⟨.fw, rfl, rfl⟩
  · exact ⟨.nocrc, rfl, rfl⟩

/-- MODE = 3 is not stored (R22, U11). -/
theorem writeReg_ctrl_of_three {s : State} {v : Word} (h : v.extractLsb' 0 2 = 3) : writeReg s .ctrl v = s := by
  rw [writeReg, h]
  rfl

theorem writeReg_ctrl_of_mode {s : State} {v : Word} {m : Mode} (h : modeOfCode (v.extractLsb' 0 2) = some m) :
    writeReg s .ctrl v = { s with mode := m } := by
  rw [writeReg, h]

/-! ## STATUS -/

/-- Where the fields of STATUS lie (R24). -/
theorem statusWord_fields (s : State) :
    (statusWord s).extractLsb' 0 4 = errCode s.err ∧ (statusWord s).extractLsb' 4 4 = 0 ∧
    (statusWord s).extractLsb' 8 1 = BitVec.ofBool s.rxv ∧ (statusWord s).extractLsb' 9 1 = BitVec.ofBool s.crcm ∧
    (statusWord s).extractLsb' 10 22 = 0 := by
  refine ⟨BitVec.extractLsb'_append_eq_right, ?_, ?_, ?_, ?_⟩
  all_goals refine (BitVec.extractLsb'_append_eq_of_le (by decide)).trans ?_
  · exact BitVec.extractLsb'_append_eq_right
  all_goals refine (BitVec.extractLsb'_append_eq_of_le (by decide)).trans ?_
  · exact BitVec.extractLsb'_append_eq_right
  all_goals refine (BitVec.extractLsb'_append_eq_of_le (by decide)).trans ?_
  · exact BitVec.extractLsb'_append_eq_right
  · exact BitVec.extractLsb'_append_eq_left

/-- A bit of a word, from the one-bit field at its position. -/
theorem getLsbD_of_extractLsb'_one {v : Word} {k : Nat} {b : Bool} (h : v.extractLsb' k 1 = BitVec.ofBool b) :
    v.getLsbD k = b := by
  simpa using congrArg (BitVec.getLsbD · 0) h

/-! ## Words of four bytes and of two halves -/

/-- The bytes of a register of four one-byte fields (R28, R30). -/
theorem bytes_of_append (b3 b2 b1 b0 : Byte) :
    (b3 ++ b2 ++ b1 ++ b0).extractLsb' 0 8 = b0 ∧ (b3 ++ b2 ++ b1 ++ b0).extractLsb' 8 8 = b1 ∧
    (b3 ++ b2 ++ b1 ++ b0).extractLsb' 16 8 = b2 ∧ (b3 ++ b2 ++ b1 ++ b0).extractLsb' 24 8 = b3 := by
  refine ⟨BitVec.extractLsb'_append_eq_right, ?_, ?_, ?_⟩
  · exact (BitVec.extractLsb'_append_eq_of_le (by decide)).trans BitVec.extractLsb'_append_eq_right
  · exact (BitVec.extractLsb'_append_eq_of_le (by decide)).trans
      ((BitVec.extractLsb'_append_eq_of_le (by decide)).trans BitVec.extractLsb'_append_eq_right)
  · exact (BitVec.extractLsb'_append_eq_of_le (by decide)).trans
      ((BitVec.extractLsb'_append_eq_of_le (by decide)).trans BitVec.extractLsb'_append_eq_left)

/-- The halves of a register of two 16-bit fields (R29, R31, R32). -/
theorem halves_of_append (hi lo : Half) : (hi ++ lo).extractLsb' 0 16 = lo ∧ (hi ++ lo).extractLsb' 16 16 = hi :=
  ⟨BitVec.extractLsb'_append_eq_right, BitVec.extractLsb'_append_eq_left⟩

/-- The fields of a register of a 16-bit field over two bytes (R33). -/
theorem fields_of_append (hi : Half) (b1 b0 : Byte) :
    (hi ++ b1 ++ b0).extractLsb' 0 8 = b0 ∧ (hi ++ b1 ++ b0).extractLsb' 8 8 = b1 ∧
    (hi ++ b1 ++ b0).extractLsb' 16 16 = hi := by
  refine ⟨BitVec.extractLsb'_append_eq_right, ?_, ?_⟩
  · exact (BitVec.extractLsb'_append_eq_of_le (by decide)).trans BitVec.extractLsb'_append_eq_right
  · exact (BitVec.extractLsb'_append_eq_of_le (by decide)).trans BitVec.extractLsb'_append_eq_left

/-- A word is its four bytes put back together. -/
theorem append_bytes (v : Word) :
    v.extractLsb' 24 8 ++ v.extractLsb' 16 8 ++ v.extractLsb' 8 8 ++ v.extractLsb' 0 8 = v := by
  have h2 : v.extractLsb' 24 8 ++ v.extractLsb' 16 8 = v.extractLsb' 16 16 :=
    BitVec.extractLsb'_append_extractLsb'_eq_extractLsb' rfl
  have h3 : v.extractLsb' 16 16 ++ v.extractLsb' 8 8 = v.extractLsb' 8 24 :=
    BitVec.extractLsb'_append_extractLsb'_eq_extractLsb' rfl
  rw [h2, h3]
  exact BitVec.extractLsb'_append_extractLsb' (w := 24)

/-! ## The register map -/

/-- The offsets of the map are the multiples of 4 up to 0x2C (R34). -/
theorem exists_regOffset_iff (off : Nat) : (∃ r, off = regOffset r) ↔ off % 4 = 0 ∧ off ≤ 0x2C := by
  constructor
  · rintro ⟨r, rfl⟩
    cases r <;> decide
  · rintro ⟨hmod, hle⟩
    have hmap : ∀ k < 12, ∃ r ∈ registerMap, 4 * k = regOffset r := by decide
    obtain ⟨r, -, hr⟩ := hmap (off / 4) (by omega)
    exact ⟨r, by omega⟩

theorem regAt_isSome_iff (off : Nat) : (regAt off).isSome = true ↔ off % 4 = 0 ∧ off ≤ 0x2C := by
  rw [← exists_regOffset_iff, Option.isSome_iff_exists]
  exact ⟨fun ⟨r, hr⟩ => ⟨r, regAt_eq_some hr⟩, fun ⟨r, hr⟩ => ⟨r, hr ▸ regAt_regOffset r⟩⟩

theorem regRead_unmapped {off : Nat} (h : regAt off = none) (s : State) : regRead s off = 0 := by
  rw [regRead, h]

/-! ## Reading one byte -/

/-- A read of one written byte draws nothing. -/
theorem afterRead_one_of_get? {s : State} {i : Nat} {b : Byte} (h : Memory.get? s.fb i = some b) :
    afterRead s i 1 = s := by
  refine afterRead_of_allWritten s i 1 ((allWritten_iff _ _ _).2 fun k hle hlt => ?_)
  obtain rfl : k = i := by omega
  rw [h]
  rfl

/-- A read of one UNWRITTEN byte uses up the draw. -/
theorem afterRead_one_of_unwritten {s : State} {i : Nat} (h : Memory.get? s.fb i = none) :
    afterRead s i 1 = { s with draws := s.draws + 1 } := by
  have hnot : allWritten s.fb i 1 = false := by simp [allWritten, h]
  rw [afterRead, hnot]
  rfl

/-! ## The statements -/

/-- Settles O42: the MODE field is its code, and a code other than 3 selects a mode (`modeOfCode_of_ne_three`). -/
theorem ctrlStoresLegalModesOnly : Obligations.CtrlStoresLegalModesOnly := by
  have hread (s : State) : regRead s 0x00 = (0 : BitVec 30) ++ modeCode s.mode := regRead_regOffset s .ctrl
  refine ⟨fun s => ?_, fun s v rest h => ?_⟩
  · rw [hread]
    cases s.mode <;> decide
  · have hstep := step_regWrite (r := .ctrl) (by decide) h
    refine ⟨fun hthree => ?_, fun hne => ?_⟩
    · rw [hstep, writeReg_ctrl_of_three hthree]
    · obtain ⟨m, hm, hcode⟩ := modeOfCode_of_ne_three hne
      refine ⟨m, by rw [hstep, writeReg_ctrl_of_mode hm], ?_⟩
      rw [hread, hcode]
      exact zero_append_extractLsb' (k := 30) (w := 2) v

/-- Settles O43: STATUS is assembled from its fields (`statusWord_fields`) and stores nothing. -/
theorem statusWordLayout : Obligations.StatusWordLayout := by
  refine ⟨fun s => ?_, fun s v rest h => step_regWrite (r := .status) (by decide) h⟩
  rw [show regRead s 0x08 = statusWord s from regRead_regOffset s .status]
  obtain ⟨herr, hlow, hrxv, hcrcm, hhigh⟩ := statusWord_fields s
  refine ⟨?_, hlow, getLsbD_of_extractLsb'_one hrxv, getLsbD_of_extractLsb'_one hcrcm, hhigh⟩
  rw [herr]
  cases s.err <;> rfl

/-- Settles O44: both registers read 16 bits under a zero half, and CRC_OUT complements them. -/
theorem crcAccAndCrcOut : Obligations.CrcAccAndCrcOut := by
  refine ⟨fun s v rest h => step_regWrite (r := .crcAcc) (by decide) h,
    fun s v rest h => step_regWrite (r := .crcOut) (by decide) h, fun s => ⟨?_, ?_⟩, rfl, by decide⟩
  · exact toNat_zero_append s.acc
  · rw [regRead_crcOut, toNat_zero_append, BitVec.toNat_not]

/-- Settles O45: each write stores the fields that the same register's read puts back together. -/
theorem lengthAndTransmitRegistersStore : Obligations.LengthAndTransmitRegistersStore := by
  refine ⟨fun s v rest h => ⟨_, step_regWrite (r := .flen) (by decide) h, rfl, ?_⟩,
    fun s v rest h => ⟨_, step_regWrite (r := .txHdr) (by decide) h, rfl, ?_⟩,
    fun s v rest h => ⟨_, step_regWrite (r := .txSeqPlen) (by decide) h, rfl, ?_⟩⟩
  · exact zero_append_extractLsb' (k := 16) (w := 16) v
  · exact append_bytes v
  · exact BitVec.extractLsb'_append_extractLsb' (w := 16)

/-- Settles O46: a field of a concatenation is read at its bits, and the four registers store nothing. -/
theorem receiveRegistersAreReadOnly : Obligations.ReceiveRegistersAreReadOnly := by
  refine ⟨fun s => ?_, fun s off v rest hoff h => ?_⟩
  · obtain ⟨htype, hflags, hsrc, hdest⟩ := bytes_of_append s.rxDest s.rxSrc s.rxFlags s.rxType
    obtain ⟨hseq, hdlen⟩ := halves_of_append s.rxDlen s.rxSeq
    obtain ⟨hdecl, hcalc⟩ := halves_of_append s.rxCalc s.rxDecl
    obtain ⟨hrsvd, hpoff, hplen⟩ := fields_of_append s.rxPlen s.rxPoff s.rxRsvd
    exact ⟨htype, hflags, hsrc, hdest, hseq, hdlen, hdecl, hcalc, hrsvd, hpoff, hplen⟩
  · obtain rfl | rfl | rfl | rfl := hoff
    · exact step_regWrite (r := .rxHdr) (by decide) h
    · exact step_regWrite (r := .rxSeqDlen) (by decide) h
    · exact step_regWrite (r := .rxCrc) (by decide) h
    · exact step_regWrite (r := .rxMisc) (by decide) h

/-- Settles O47: the map's offsets are the multiples of 4 up to 0x2C (`exists_regOffset_iff`); elsewhere there is no
register to read or write. -/
theorem unmappedOffsetsReadZeroIgnoreWrites : Obligations.UnmappedOffsetsReadZeroIgnoreWrites := by
  refine ⟨regAt_isSome_iff, fun s off v rest hoff => ?_⟩
  have hnone : regAt off = none := by rwa [← regAt_isSome_iff, Option.not_isSome_iff_eq_none] at hoff
  refine ⟨fun h => ?_, step_regWrite_unmapped hnone⟩
  rw [step_regRead h, regRead_unmapped hnone]

/-- Settles O48: both accesses compare the index with BUF_BYTES first. -/
theorem bufferBeyondTheEndReadsZero : Obligations.BufferBeyondTheEndReadsZero :=
  fun _ _ _ _ hi => ⟨step_bufRead_beyond hi, step_bufWrite_beyond hi⟩

/-- Settles O49: the write is `Memory.set`, and the read of a written byte draws nothing. -/
theorem bufferWriteThenRead : Obligations.BufferWriteThenRead := by
  refine ⟨fun s i b rest hi h => ⟨_, step_bufWrite hi h, Memory.get?_set_self _ _ _,
    fun a ha => Memory.get?_set_of_ne _ _ ha⟩, fun s i b rest hi hb h => ?_⟩
  rw [step_bufRead hi h, afterRead_one_of_get? hb, readByte_of_get? s i b hb]

/-- Settles O50: FB is empty at reset, and an UNWRITTEN byte reads as the free value of the draw it uses up. -/
theorem unwrittenByteReadsAFreeValue : Obligations.UnwrittenByteReadsAFreeValue := by
  refine ⟨fun i => rfl, fun s i rest hi hnone h => ?_⟩
  rw [step_bufRead hi h, afterRead_one_of_unwritten hnone, readByte, hnone]
  rfl

/-- Settles O51: after a hardware reset the registers are those of SRST (`regRead_resetRegisters`) and FB is empty. -/
theorem resetValues : Obligations.ResetValues := by
  refine ⟨fun r => ?_, rfl, rfl, fun i => rfl, fun s rest h => ⟨_, step_hardReset h, fun off => ?_, fun i => rfl⟩⟩
  · rw [regRead_regOffset]
    cases r <;> decide
  · rw [← regRead_resetRegisters { s with inputs := rest, fb := [] } off]
    rfl

/-- Settles O56: a register read records alone (`step_regRead`); a buffer read draws only where the byte is
UNWRITTEN. -/
theorem readsHaveNoSideEffects : Obligations.ReadsHaveNoSideEffects := by
  refine ⟨fun s off rest h => step_regRead h, fun s i rest h => ?_⟩
  rcases Nat.lt_or_ge i Config.here.bufBytes with hi | hi
  · refine ⟨_, _, step_bufRead hi h, fun hdraws => ?_⟩
    cases hb : Memory.get? s.fb i with
    | none => rfl
    | some b => exact absurd (congrArg State.draws (afterRead_one_of_get? hb)) hdraws
  · exact ⟨s.draws, 0, step_bufRead_beyond hi h, fun hdraws => absurd rfl hdraws⟩

end Sys2Proof.Machine

end

/-! # The ones'-complement sum (spec/40_crc16.md) -/

section

namespace Sys2Proof.Machine

open Sys2Proof

/-! ## `oc_add` is commutative and associative (R106) -/

theorem ocAdd_comm (a b : Half) : ocAdd a b = ocAdd b a := by
  apply BitVec.eq_of_toNat_eq
  rw [ocAdd_toNat, ocAdd_toNat, Nat.add_comm a.toNat]

/-- `S` folded into 16 bits with every carry added in, in closed form: 0 for 0, and otherwise the representative of `S`
modulo 0xFFFF in 1 to 0xFFFF (R102). -/
def ocFold (S : Nat) : Nat := if S = 0 then 0 else (S - 1) % 0xFFFF + 1

theorem ocFold_of_lt {S : Nat} (h : S < 0x10000) : ocFold S = S := by
  unfold ocFold
  split <;> omega

theorem ocFold_le (S : Nat) : ocFold S ≤ 0xFFFF := by
  unfold ocFold
  split <;> omega

theorem ocFold_eq_zero_iff (S : Nat) : ocFold S = 0 ↔ S = 0 := by
  unfold ocFold
  split <;> omega

/-- Folding keeps the value modulo 0xFFFF. -/
theorem ocFold_mod (S : Nat) : ocFold S % 0xFFFF = S % 0xFFFF := by
  unfold ocFold
  split <;> omega

/-- Adding the carry to the low 16 bits does not change what is folded to. -/
theorem ocFold_addCarry (S : Nat) : ocFold (S % 0x10000 + S / 0x10000) = ocFold S := by
  unfold ocFold
  split <;> split <;> omega

theorem ocFold_add (S T : Nat) : ocFold (ocFold S + T) = ocFold (S + T) := by
  unfold ocFold
  split <;> split <;> split <;> omega

theorem ocAdd_toNat_eq_ocFold (a w : Half) : (ocAdd a w).toNat = ocFold (a.toNat + w.toNat) := by
  have ha := a.isLt
  have hw := w.isLt
  rw [ocAdd_toNat, ← ocFold_addCarry, ocFold_of_lt (by omega)]

theorem ocAdd_assoc (a b c : Half) : ocAdd (ocAdd a b) c = ocAdd a (ocAdd b c) := by
  apply BitVec.eq_of_toNat_eq
  calc (ocAdd (ocAdd a b) c).toNat
      = ocFold (a.toNat + b.toNat + c.toNat) := by
        rw [ocAdd_toNat_eq_ocFold, ocAdd_toNat_eq_ocFold, ocFold_add]
    _ = ocFold (b.toNat + c.toNat + a.toNat) := congrArg ocFold (by omega)
    _ = (ocAdd a (ocAdd b c)).toNat := by
        rw [ocAdd_comm a, ocAdd_toNat_eq_ocFold, ocAdd_toNat_eq_ocFold, ocFold_add]

/-- 0xFFFF is a second zero (R106). -/
theorem ocAdd_allOnes {a : Half} (h : a ≠ 0) : ocAdd a 0xFFFF = a := by
  have ha := a.isLt
  have hpos : a.toNat ≠ 0 := fun h0 => h (BitVec.eq_of_toNat_eq h0)
  have hones : (0xFFFF : Half).toNat = 0xFFFF := rfl
  apply BitVec.eq_of_toNat_eq
  rw [ocAdd_toNat, hones]
  omega

/-- A word and its complement sum to 0xFFFF without a carry (R106). -/
theorem ocAdd_not (a : Half) : ocAdd a (~~~ a) = 0xFFFF := by
  have ha := a.isLt
  have hones : (0xFFFF : Half).toNat = 0xFFFF := rfl
  apply BitVec.eq_of_toNat_eq
  rw [ocAdd_toNat, BitVec.toNat_not, hones]
  omega

/-! ## `ocsum` -/

/-- `S` turns of the fold reach the closed form (R102). -/
theorem foldCarries_eq {k S : Nat} (h : S ≤ k) : foldCarries k S = ocFold S := by
  induction k generalizing S with
  | zero => rw [foldCarries, ocFold_of_lt (by omega)]
  | succ k ih =>
    rw [foldCarries]
    split
    · rw [ih (by omega), ocFold_addCarry]
    · rw [ocFold_of_lt (by omega)]

theorem ocSum_toNat (o : OddTail) (b : List Byte) : (ocSum o b).toNat = ocFold (wordSum (frameWords o b)) := by
  have hle := ocFold_le (wordSum (frameWords o b))
  rw [ocSum, foldCarries_eq le_rfl, BitVec.toNat_ofNat, Nat.mod_eq_of_lt (by omega)]

/-- `ocsum` depends on the sum of the words alone. -/
theorem ocSum_congr {o o' : OddTail} {b b' : List Byte}
    (h : wordSum (frameWords o b) = wordSum (frameWords o' b')) : ocSum o b = ocSum o' b' := by
  apply BitVec.eq_of_toNat_eq
  rw [ocSum_toNat, ocSum_toNat, h]

theorem wordSum_perm {ws ws' : List Half} (h : ws.Perm ws') : wordSum ws = wordSum ws' := (h.map BitVec.toNat).sum_eq

theorem wordSum_eq_zero_iff (ws : List Half) : wordSum ws = 0 ↔ ∀ w ∈ ws, w = 0 := by
  have hzero (w : Half) : w.toNat = 0 ↔ w = 0 := (BitVec.toNat_inj (y := 0))
  simp only [wordSum, List.sum_eq_zero_iff, List.forall_mem_map, hzero]

/-- Repeated `oc_add` folds the sum of the words (R106). -/
theorem foldl_ocAdd_toNat (a : Half) (ws : List Half) :
    (ws.foldl ocAdd a).toNat = ocFold (a.toNat + wordSum ws) := by
  induction ws generalizing a with
  | nil => rw [List.foldl_nil, wordSum_nil, Nat.add_zero, ocFold_of_lt a.isLt]
  | cons w ws ih => rw [List.foldl_cons, ih, ocAdd_toNat_eq_ocFold, ocFold_add, wordSum_cons, Nat.add_assoc]

/-- `oc_add` once per word, from 0, is `ocsum` of any byte list with the same sum of words. -/
theorem foldl_ocAdd_eq_ocSum {o : OddTail} {b : List Byte} {ws : List Half}
    (h : wordSum ws = wordSum (frameWords o b)) : ws.foldl ocAdd 0 = ocSum o b := by
  apply BitVec.eq_of_toNat_eq
  rw [foldl_ocAdd_toNat, ocSum_toNat, ← h]
  exact congrArg ocFold (Nat.zero_add _)

/-! ## `crc16_cps` -/

theorem crc16Cps_toNat (o : OddTail) (b : List Byte) : (crc16Cps o b).toNat = 0xFFFF - (ocSum o b).toNat :=
  BitVec.toNat_not

theorem crc16Cps_eq_allOnes_iff (o : OddTail) (b : List Byte) :
    crc16Cps o b = 0xFFFF ↔ ∀ w ∈ frameWords o b, w = 0 := by
  have hle := ocFold_le (wordSum (frameWords o b))
  have hones : (0xFFFF : Half).toNat = 0xFFFF := rfl
  rw [← wordSum_eq_zero_iff, ← ocFold_eq_zero_iff, ← BitVec.toNat_inj, crc16Cps_toNat, ocSum_toNat, hones]
  omega

/-! ## The words of a frame and its checksum slot -/

/-- Words do not straddle a boundary at an even offset (R101). -/
theorem frameWords_append_of_even (o : OddTail) {a : List Byte} (b : List Byte) (h : a.length % 2 = 0) :
    frameWords o (a ++ b) = frameWords o a ++ frameWords o b := by
  induction a using List.twoStepInduction with
  | nil => rfl
  | singleton x => contradiction
  | cons_cons lo hi rest ih _ =>
    have hrest : rest.length % 2 = 0 := by simpa [Nat.add_assoc] using h
    rw [List.cons_append, List.cons_append, frameWords_cons_cons, frameWords_cons_cons, ih hrest, List.cons_append]

/-- A frame around its CPS checksum slot. -/
theorem eq_around_slot {f : List Byte} (h : 12 ≤ f.length) :
    f = f.take 10 ++ [byteAt f 10, byteAt f 11] ++ f.drop 12 := by
  have h10 : byteAt f 10 = f[10] := List.getD_eq_getElem _ _ _
  have h11 : byteAt f 11 = f[11] := List.getD_eq_getElem _ _ _
  rw [List.append_assoc, h10, h11, List.cons_append, List.cons_append, List.nil_append, List.getElem_cons_drop,
    List.getElem_cons_drop, List.take_append_drop]

/-- The sum of the words around two bytes at the CPS slot, those two bytes being one word. -/
theorem wordSum_around_slot (o : OddTail) {f : List Byte} (lo hi : Byte) (h : 12 ≤ f.length) :
    wordSum (frameWords o (f.take 10 ++ [lo, hi] ++ f.drop 12)) =
      wordSum (frameWords o (f.take 10 ++ f.drop 12)) + (hi ++ lo : Half).toNat := by
  have heven : (f.take 10).length % 2 = 0 := by rw [List.length_take, Nat.min_eq_left (by omega)]
  rw [List.append_assoc, frameWords_append_of_even o _ heven, frameWords_append_of_even o _ heven, wordSum_append,
    wordSum_append, List.cons_append, List.cons_append, frameWords_cons_cons, wordSum_cons]
  exact (Nat.add_left_comm _ _ _).trans (Nat.add_comm _ _)

/-- The sum of a frame's words is that of the frame without its checksum, and its checksum word. -/
theorem wordSum_eq_slot_add (o : OddTail) {f : List Byte} (h : 12 ≤ f.length) :
    wordSum (frameWords o f) = wordSum (frameWords o (f.take 10 ++ f.drop 12)) + (rdLE16 f 10).toNat := by
  conv_lhs => rw [eq_around_slot h]
  exact wordSum_around_slot o _ _ h

theorem wordSum_zeroSlot (o : OddTail) {f : List Byte} (h : 12 ≤ f.length) :
    wordSum (frameWords o (zeroSlot f 10)) = wordSum (frameWords o (f.take 10 ++ f.drop 12)) :=
  wordSum_around_slot o 0 0 h

/-- The words of a frame that carries its correct checksum sum to 0xFFFF (R107). -/
theorem ocSum_of_correct {o : OddTail} {f : List Byte} (h : 12 ≤ f.length)
    (hcrc : rdLE16 f 10 = crc16Cps o (zeroSlot f 10)) : ocSum o f = 0xFFFF := by
  have hle := ocFold_le (wordSum (frameWords o (zeroSlot f 10)))
  have hones : (0xFFFF : Half).toNat = 0xFFFF := rfl
  apply BitVec.eq_of_toNat_eq
  rw [ocSum_toNat, wordSum_eq_slot_add o h, ← wordSum_zeroSlot o h, hcrc, crc16Cps_toNat, ocSum_toNat, ← ocFold_add,
    Nat.add_sub_cancel' hle, hones]
  rfl

/-! ## The statements -/

/-- Settles O18: commutativity and the zeros by the definition, associativity because `oc_add` folds the unbounded sum
(`ocAdd_toNat_eq_ocFold`). -/
theorem ocAddLaws : Obligations.OcAddLaws :=
  ⟨ocAdd_comm, ocAdd_assoc, ocAdd_zero, fun _ => ocAdd_allOnes, by decide, ocAdd_not⟩

/-- Settles O20: both ways of summing reach the closed form `ocFold` (`foldCarries_eq`, `foldl_ocAdd_toNat`), which
depends on the sum of the words alone. -/
theorem ocSumEqualsRepeatedOcAdd : Obligations.OcSumEqualsRepeatedOcAdd :=
  ⟨fun _ _ => (foldl_ocAdd_eq_ocSum rfl).symm, ocSum_toNat, fun _ _ _ _ hperm => ocSum_congr (wordSum_perm hperm)⟩

/-- Settles O21: `ocsum` is 0 only if every word is 0 (`crc16Cps_eq_allOnes_iff`), and a word with low byte 0x7E is
not. -/
theorem cpsFrameCrcIsNeverAllOnes : Obligations.CpsFrameCrcIsNeverAllOnes := by
  refine ⟨crc16Cps_eq_allOnes_iff, fun o type rest h => ?_⟩
  have hzero : type ++ (0x7E : Byte) = (0 : Half) := by
    refine (crc16Cps_eq_allOnes_iff o _).1 h _ ?_
    rw [frameWords_cons_cons]
    exact List.mem_cons_self
  have hword := congrArg BitVec.toNat hzero
  rw [word_toNat] at hword
  exact absurd hword (by simp)

/-- Settles O22: the zeroed slot is one zero word (`wordSum_zeroSlot`). -/
theorem zeroedCrcSlotAddsNothing : Obligations.ZeroedCrcSlotAddsNothing :=
  ⟨crc16Cps_toNat, fun o _ hlen => congrArg (~~~ ·) (ocSum_congr (wordSum_zeroSlot o hlen))⟩

/-- Settles O23: a correct frame sums to 0xFFFF (`ocSum_of_correct`); a 16-bit value completes `ocsum` to 0xFFFF only if
it is the complement, or if both are 0xFFFF. -/
theorem sumIdentityAgainstExactCompare : Obligations.SumIdentityAgainstExactCompare := by
  refine ⟨fun o f hlen hcrc => ocSum_of_correct hlen hcrc, fun o b => ocAdd_not _, fun o b declared => ?_⟩
  have hsum := (ocSum o b).isLt
  have hdecl := declared.isLt
  have hones : (0xFFFF : Half).toNat = 0xFFFF := rfl
  rw [ne_eq, ← BitVec.toNat_inj, ← BitVec.toNat_inj, ← BitVec.toNat_inj, ← BitVec.toNat_inj, ocAdd_toNat,
    crc16Cps_toNat, hones]
  omega

end Sys2Proof.Machine

end

/-! # Streaming a byte list through the CRC commands (spec/40_crc16.md section 3) -/

section

namespace Sys2Proof.Machine

open Sys2Proof

/-- The word a streaming command adds to ACC (R111, R112). -/
def addedWord : Instr → Half
  | .crcWord arg => arg
  | .crcByte arg => (arg.extractLsb' 0 8).zeroExtend 16
  | _ => 0

/-- The command adds its word to ACC and reports success. -/
def AddsItsWord (i : Instr) : Prop :=
  ∀ s : State, exec i s = .next { s with acc := ocAdd s.acc (addedWord i), err := .none }

/-- A command at the head of the inputs takes one step. -/
theorem runSteps_command {i : Instr} {s t : State} {rest : List Input} (k : Nat)
    (h : exec i { s with inputs := rest } = .next t) :
    runSteps (k + 1) { s with inputs := .host (.regWrite 0x04 (encode i)) :: rest } = runSteps k t := by
  rw [runSteps, step_cmdWrite rfl, issueCommand_ok (decode_encode i), h]

/-- Commands that add their words leave the repeated `oc_add` of them in ACC. -/
theorem runSteps_adding {is : List Instr} (hadd : ∀ i ∈ is, AddsItsWord i) (s : State) (rest : List Input) :
    runSteps is.length { s with err := .none, inputs := commandInputs is ++ rest } =
      .next { s with acc := (is.map addedWord).foldl ocAdd s.acc, err := .none, inputs := rest } := by
  induction is generalizing s with
  | nil => rfl
  | cons i is ih =>
    rw [List.forall_mem_cons] at hadd
    calc runSteps (is.length + 1) { s with err := .none, inputs := commandInputs (i :: is) ++ rest }
        = runSteps is.length
            { s with acc := ocAdd s.acc (addedWord i), err := .none, inputs := commandInputs is ++ rest } :=
          runSteps_command (s := { s with err := .none }) is.length (hadd.1 _)
      _ = _ := ih hadd.2 { s with acc := ocAdd s.acc (addedWord i) }

theorem addsItsWord_crcWord (arg : Half) : AddsItsWord (.crcWord arg) := exec_crcWord arg

theorem addsItsWord_tailCommands (o : OddTail) (b : List Byte) (hi : Byte) :
    ∀ i ∈ tailCommands o b hi, AddsItsWord i := by
  intro i h
  unfold tailCommands at h
  split at h
  · rw [List.mem_singleton] at h
    exact h ▸ exec_crcByte _
  · contradiction

/-- The final CRC_BYTE adds the words of the byte that the pairs leave over (R113). -/
theorem map_addedWord_tailCommands (o : OddTail) (b : List Byte) (hi : Byte) :
    (tailCommands o b hi).map addedWord = frameWords o (b.drop (2 * (b.length / 2))) := by
  unfold tailCommands
  rcases Nat.mod_two_eq_zero_or_one b.length with heven | hodd
  · have hlen : 2 * (b.length / 2) = b.length := by omega
    rw [if_neg (by omega), hlen, List.drop_length]
    rfl
  · rw [drop_pairs_of_odd hodd]
    cases o with
    | padZero =>
      have hlow (x : Byte) : (hi ++ x).extractLsb' 0 8 = x := BitVec.extractLsb'_append_eq_right
      rw [if_pos ⟨hodd, rfl⟩, frameWords_singleton_padZero, zero_append_byte, List.map_singleton, addedWord, hlow]
    | ignore =>
      rw [if_neg (fun h => absurd h.2 (by decide))]
      rfl

/-- The streaming commands of R113 add words with the same sum as the words of the byte list. -/
theorem wordSum_streamed (o : OddTail) (b : List Byte) (hi : Byte) {ws : List Half} (h : ws.Perm (pairWords b)) :
    wordSum ((ws.map Instr.crcWord ++ tailCommands o b hi).map addedWord) = wordSum (frameWords o b) := by
  have hws : (ws.map Instr.crcWord).map addedWord = ws := by rw [List.map_map]; exact List.map_id ws
  rw [List.map_append, hws, map_addedWord_tailCommands, frameWords_eq_pairWords_append o b]
  exact wordSum_perm (h.append_right _)

/-- Settles O24: CRC_CLEAR takes one step, and the commands after it add the words of `b` in some order
(`runSteps_adding`, `wordSum_streamed`). -/
theorem streamingEqualsFrameCrc : Obligations.StreamingEqualsFrameCrc := by
  intro o b hi ws rest s hperm
  have hadd : ∀ i ∈ ws.map Instr.crcWord ++ tailCommands o b hi, AddsItsWord i :=
    List.forall_mem_append.2
      ⟨List.forall_mem_map.2 fun w _ => addsItsWord_crcWord w, addsItsWord_tailCommands o b hi⟩
  have hlen : 1 + ws.length + (tailCommands o b hi).length =
      (ws.map Instr.crcWord ++ tailCommands o b hi).length + 1 := by
    rw [List.length_append, List.length_map]
    omega
  refine ⟨?_, regRead_crcOut _⟩
  rw [hlen, ← foldl_ocAdd_eq_ocSum (wordSum_streamed o b hi hperm)]
  exact (runSteps_command _ (exec_crcClear 0 _)).trans (runSteps_adding hadd { s with acc := 0 } rest)

end Sys2Proof.Machine

end

/-! # What ENCODE and DECODE depend on and what they change (spec/41_frame_codec.md, R53, R57) -/

section

namespace Sys2Proof.Machine

open Sys2Proof

/-! ## Reading FB -/

theorem allWritten_congr {m m' : Memory} {i n : Nat}
    (h : ∀ k, i ≤ k → k < i + n → Memory.get? m k = Memory.get? m' k) : allWritten m i n = allWritten m' i n := by
  rw [Bool.eq_iff_iff, allWritten_iff, allWritten_iff]
  exact forall₃_congr fun k hle hlt => by rw [h k hle hlt]

/-! ## ENCODE -/

/-- ENCODE as one update of the state (R130, R131). -/
theorem encodeFrame_eq (cfg : Config) (s : State) :
    encodeFrame cfg s =
      if txOverflows cfg s then { s with err := .lenOverflow }
      else
        { s with
          fb := Memory.write s.fb 0 (txHeaderBytes cfg s), flen := BitVec.ofNat 16 (txFrameLen s), err := .none
          draws := (afterPayloadRead s).draws } := by
  rcases encodeFrame_cases cfg s with ⟨hover, heq⟩ | ⟨hfits, heq⟩
  · rw [heq, if_pos hover]
  · rw [heq, hfits, if_neg Bool.false_ne_true]

/-- ENCODE that reports no error has built its frame (R131). -/
theorem encodeFrame_of_err_none {cfg : Config} {s : State} (h : (encodeFrame cfg s).err = .none) :
    txOverflows cfg s = false ∧
    encodeFrame cfg s =
      { s with
        fb := Memory.write s.fb 0 (txHeaderBytes cfg s), flen := BitVec.ofNat 16 (txFrameLen s), err := .none
        draws := (afterPayloadRead s).draws } := by
  rcases encodeFrame_cases cfg s with ⟨-, heq⟩ | hbuilt
  · rw [heq] at h
    contradiction
  · exact hbuilt

theorem txFrameLen_le {cfg : Config} {s : State} (h : txOverflows cfg s = false) :
    txFrameLen s ≤ 0xFFFF ∧ txFrameLen s ≤ cfg.bufBytes := by
  rw [← Bool.not_eq_true, txOverflows_iff] at h
  omega

/-- The draw ENCODE uses: one, if its mode reads the payload and a payload byte is UNWRITTEN (log entries 3 and 9). -/
theorem afterPayloadRead_draws (s : State) :
    (afterPayloadRead s).draws =
      if s.mode = .nocrc ∨ allWritten s.fb (hdrLen s.mode) s.txPlen.toNat = true then s.draws else s.draws + 1 := by
  unfold afterPayloadRead
  cases hm : s.mode <;> simp [afterRead_eq]

/-- A written payload uses no draw. -/
theorem afterPayloadRead_draws_of_allWritten {s : State}
    (h : allWritten s.fb (hdrLen s.mode) s.txPlen.toNat = true) : (afterPayloadRead s).draws = s.draws := by
  rw [afterPayloadRead_draws, if_pos (.inr h)]

/-- The header depends on the TX registers, MODE and the payload alone (R53). -/
theorem txHeaderBytes_update (cfg : Config) (s : State) {m : Memory} {n : Half} {e : ErrCode} {d : Nat}
    (h : txPayload { s with fb := m, flen := n, err := e, draws := d } = txPayload s) :
    txHeaderBytes cfg { s with fb := m, flen := n, err := e, draws := d } = txHeaderBytes cfg s := by
  simp only [txHeaderBytes, h]
  rfl

/-- ENCODE overwrites ERR (R37). -/
theorem encodeFrame_update_err (cfg : Config) (s : State) (e : ErrCode) :
    encodeFrame cfg { s with err := e } = encodeFrame cfg s := by
  have hover : txOverflows cfg { s with err := e } = txOverflows cfg s := rfl
  have hhdr : txHeaderBytes cfg { s with err := e } = txHeaderBytes cfg s := rfl
  rw [encodeFrame_eq, encodeFrame_eq, afterPayloadRead_draws, afterPayloadRead_draws, hover, hhdr]
  rfl

/-- Over a written payload the draw count passes through ENCODE untouched and unused (R144). -/
theorem encodeFrame_update_draws (cfg : Config) (s : State) (d : Nat)
    (hw : allWritten s.fb (hdrLen s.mode) s.txPlen.toNat = true) :
    encodeFrame cfg { s with draws := d } = { encodeFrame cfg s with draws := d } := by
  have hover : txOverflows cfg { s with draws := d } = txOverflows cfg s := rfl
  have hhdr : txHeaderBytes cfg { s with draws := d } = txHeaderBytes cfg s :=
    txHeaderBytes_update cfg s (memRead_congr_written _ s _ _ hw fun _ _ _ => rfl)
  rw [encodeFrame_eq, encodeFrame_eq, hover, hhdr, afterPayloadRead_draws_of_allWritten (s := { s with draws := d }) hw]
  split <;> rfl

/-- What ENCODE leaves of a state whose frame fits and whose payload is written. -/
def encoded (cfg : Config) (s : State) : State :=
  { s with
    fb := Memory.write s.fb 0 (txHeaderBytes cfg s), flen := BitVec.ofNat 16 (txFrameLen s), err := .none }

theorem encodeFrame_eq_encoded {cfg : Config} {s : State} (hfits : txOverflows cfg s = false)
    (hw : allWritten s.fb (hdrLen s.mode) s.txPlen.toNat = true) : encodeFrame cfg s = encoded cfg s := by
  rw [encodeFrame_eq, hfits, if_neg Bool.false_ne_true, afterPayloadRead_draws_of_allWritten hw, encoded]

/-- The header does not reach the payload (R53). -/
theorem get?_encoded_payload (cfg : Config) (s : State) :
    ∀ k, hdrLen s.mode ≤ k → k < hdrLen s.mode + s.txPlen.toNat →
      Memory.get? (encoded cfg s).fb k = Memory.get? s.fb k :=
  fun _ hk _ => get?_write_txHeaderBytes_of_ge cfg s hk

/-- A second ENCODE writes the same header in the same place (R57). -/
theorem encoded_encoded (cfg : Config) {s : State} (hw : allWritten s.fb (hdrLen s.mode) s.txPlen.toNat = true) :
    encoded cfg (encoded cfg s) = encoded cfg s := by
  have hpayload : txPayload (encoded cfg s) = txPayload s :=
    (memRead_congr_written s _ _ _ hw fun k hk hlt => (get?_encoded_payload cfg s k hk hlt).symm).symm
  have hhdr : txHeaderBytes cfg (encoded cfg s) = txHeaderBytes cfg s := txHeaderBytes_update cfg s hpayload
  rw [encoded, hhdr, encoded]
  simp only [Memory.write_write_self]
  rfl

/-- ENCODE of the state that an ENCODE over a written payload left is that state (R57). -/
theorem encodeFrame_encodeFrame (cfg : Config) (s : State)
    (hw : allWritten s.fb (hdrLen s.mode) s.txPlen.toNat = true) :
    encodeFrame cfg (encodeFrame cfg s) = encodeFrame cfg s := by
  rcases encodeFrame_cases cfg s with ⟨-, heq⟩ | ⟨hfits, -⟩
  · conv_lhs => rw [heq, encodeFrame_update_err]
  · have hfits' : txOverflows cfg (encoded cfg s) = false := hfits
    have hw' := (allWritten_congr (get?_encoded_payload cfg s)).trans hw
    rw [encodeFrame_eq_encoded hfits hw, encodeFrame_eq_encoded hfits' hw', encoded_encoded cfg hw]

/-! ## DECODE -/

/-- What DECODE makes of a frame `f` of `n` bytes, once it has been read (R134 to R141). -/
def report (cfg : Config) (m : Mode) (n : Nat) (f : List Byte) (s : State) : State :=
  if cfg.bufBytes < n then raiseRejected .lenOverflow s
  else (frameError cfg m f).elim (acceptFrame cfg m f s) (raiseRejected · s)

/-- The draw count DECODE leaves: a frame beyond FB is not read (R136, log entry 3). -/
def rxDraws (cfg : Config) (s : State) : Nat :=
  if cfg.bufBytes < s.flen.toNat ∨ allWritten s.fb 0 s.flen.toNat = true then s.draws else s.draws + 1

/-- DECODE reads its frame, then reports on it. -/
theorem decodeFrame_eq_report (cfg : Config) (s : State) :
    decodeFrame cfg s = report cfg s.mode s.flen.toNat (rxFrame s) { s with draws := rxDraws cfg s } := by
  unfold report rxDraws rxFrame
  rcases decodeFrame_cases cfg s with ⟨hgt, heq⟩ | ⟨hle, e, he, heq⟩ | ⟨hle, he, heq⟩
  · rw [heq, if_pos hgt, if_pos (.inl hgt)]
    rfl
  · rw [heq, if_neg (Nat.not_lt.2 hle), he, afterRead_eq]
    simp only [Nat.not_lt.2 hle, false_or]
    rfl
  · rw [heq, if_neg (Nat.not_lt.2 hle), he, afterRead_eq]
    simp only [Nat.not_lt.2 hle, false_or]
    rfl

/-- Over a written frame DECODE uses no draw. -/
theorem decodeFrame_of_allWritten (cfg : Config) {s : State} (hw : allWritten s.fb 0 s.flen.toNat = true) :
    decodeFrame cfg s = report cfg s.mode s.flen.toNat (rxFrame s) s := by
  rw [decodeFrame_eq_report, rxDraws, if_pos (.inr hw)]

section

variable (cfg : Config) (m : Mode) (n : Nat) (f : List Byte)

/-- Everything the report can do: which of these it is depends on the frame alone. -/
theorem report_cases :
    (∃ e, report cfg m n f = raiseRejected e) ∨ report cfg m n f = acceptFrame cfg m f := by
  unfold report
  split
  · exact .inl ⟨_, rfl⟩
  · cases frameError cfg m f with
    | some e => exact .inl ⟨e, rfl⟩
    | none => exact .inr rfl

variable (s : State)

/-- The report overwrites ERR (R37). -/
theorem report_update_err (e : ErrCode) : report cfg m n f { s with err := e } = report cfg m n f s := by
  rcases report_cases cfg m n f with ⟨e', h⟩ | h <;> rw [h]
  · rfl
  · cases m <;> rfl

/-- The report neither reads nor writes FB. -/
theorem report_update_fb (fb : Memory) :
    report cfg m n f { s with fb := fb } = { report cfg m n f s with fb := fb } := by
  rcases report_cases cfg m n f with ⟨e, h⟩ | h <;> rw [h]
  · rfl
  · cases m <;> rfl

/-- The report neither reads nor writes the draw count. -/
theorem report_update_draws (d : Nat) :
    report cfg m n f { s with draws := d } = { report cfg m n f s with draws := d } := by
  rcases report_cases cfg m n f with ⟨e, h⟩ | h <;> rw [h]
  · rfl
  · cases m <;> rfl

/-- Reporting on the same frame twice is reporting on it once. -/
theorem report_report : report cfg m n f (report cfg m n f s) = report cfg m n f s := by
  rcases report_cases cfg m n f with ⟨e, h⟩ | h <;> rw [h]
  · rfl
  · cases m <;> rfl

/-- The report writes ERR, the two flags and the RX registers at most (R53). -/
theorem report_frame :
    report cfg m n f s =
      { s with
        err := (report cfg m n f s).err, rxv := (report cfg m n f s).rxv, crcm := (report cfg m n f s).crcm
        rxType := (report cfg m n f s).rxType, rxFlags := (report cfg m n f s).rxFlags
        rxSrc := (report cfg m n f s).rxSrc, rxDest := (report cfg m n f s).rxDest
        rxSeq := (report cfg m n f s).rxSeq, rxDlen := (report cfg m n f s).rxDlen
        rxDecl := (report cfg m n f s).rxDecl, rxCalc := (report cfg m n f s).rxCalc
        rxRsvd := (report cfg m n f s).rxRsvd, rxPoff := (report cfg m n f s).rxPoff
        rxPlen := (report cfg m n f s).rxPlen } := by
  rcases report_cases cfg m n f with ⟨e, h⟩ | h <;> rw [h]
  · rfl
  · exact acceptFrame_frame cfg m f s

end

/-- DECODE overwrites ERR (R37). -/
theorem decodeFrame_update_err (cfg : Config) (s : State) (e : ErrCode) :
    decodeFrame cfg { s with err := e } = decodeFrame cfg s := by
  rw [decodeFrame_eq_report, decodeFrame_eq_report]
  exact report_update_err cfg s.mode s.flen.toNat (rxFrame s) { s with draws := rxDraws cfg s } e

/-! ## The statements -/

/-- Settles O13: ENCODE and DECODE overwrite ERR (`encodeFrame_update_err`, `decodeFrame_update_err`), and the other
commands and an illegal word do so by definition. -/
theorem everyCommandOverwritesErr : Obligations.EveryCommandOverwritesErr := by
  intro v s e
  cases hd : decode v with
  | error r => rw [issueCommand_error hd, issueCommand_error hd]; rfl
  | ok i =>
    rw [issueCommand_ok hd, issueCommand_ok hd]
    cases i with
    | encode arg => rw [exec_encode, exec_encode, encodeFrame_update_err]
    | decode arg => rw [exec_decode, exec_decode, decodeFrame_update_err]
    | nop _ | crcClear _ | crcWord _ | crcByte _ | srst _ => rfl

/-- Settles O29: the two outcomes of ENCODE (`encodeFrame_cases`). -/
theorem encodeFrameCondition : Obligations.EncodeFrameCondition := by
  intro cfg s
  rcases encodeFrame_cases cfg s with ⟨-, heq⟩ | ⟨-, heq⟩ <;> rw [heq]
  · exact ⟨⟨s.fb, s.flen, .lenOverflow, s.draws, rfl⟩, fun _ _ => rfl, fun _ => rfl⟩
  · exact ⟨⟨_, _, _, _, rfl⟩, fun _ => get?_write_txHeaderBytes_of_ge cfg s, nofun⟩

/-- Settles O30: the header in the way of the second ENCODE is the one it writes (`encodeFrame_encodeFrame`). -/
theorem encodeTwiceIsEncodeOnce : Obligations.EncodeTwiceIsEncodeOnce := encodeFrame_encodeFrame

/-- Settles O36: what DECODE writes is what its report writes (`report_frame`), and the draw count. -/
theorem decodeFrameCondition : Obligations.DecodeFrameCondition := by
  intro cfg s
  refine ⟨rxDraws cfg s, ?_⟩
  rw [decodeFrame_eq_report]
  exact report_frame cfg s.mode s.flen.toNat (rxFrame s) { s with draws := rxDraws cfg s }

/-- Settles O37: DECODE leaves FLEN, MODE and FB, so the second DECODE reports on the same frame (`report_report`). -/
theorem decodeTwiceIsDecodeOnce : Obligations.DecodeTwiceIsDecodeOnce := by
  intro cfg s hw
  have hframe := report_frame cfg s.mode s.flen.toNat (rxFrame s) s
  have hidem := report_report cfg s.mode s.flen.toNat (rxFrame s) s
  rw [decodeFrame_of_allWritten cfg hw]
  generalize report cfg s.mode s.flen.toNat (rxFrame s) s = t at hframe hidem ⊢
  have hfb : t.fb = s.fb := by rw [hframe]
  have hflen : t.flen = s.flen := by rw [hframe]
  have hmode : t.mode = s.mode := by rw [hframe]
  have hrx : rxFrame t = rxFrame s := by
    rw [rxFrame, rxFrame, hflen]
    exact (memRead_congr_written s t 0 _ hw fun _ _ _ => by rw [hfb]).symm
  rw [decodeFrame_of_allWritten cfg (by rwa [hfb, hflen]), hmode, hflen, hrx, hidem]

/-- Settles O38: the frame DECODE reads and the header ENCODE writes depend on those bytes alone (`memRead_congr`,
`txHeaderBytes_update`), and so do the draws. -/
theorem commandsLookOnlyAtTheirFrame : Obligations.CommandsLookOnlyAtTheirFrame := by
  refine ⟨fun cfg s m h => ?_, fun cfg s m h => ?_⟩
  · have hrx : rxFrame { s with fb := m } = rxFrame s :=
      memRead_congr _ s 0 _ rfl fun k _ hlt => h k (by rwa [Nat.zero_add] at hlt)
    have hdraws : rxDraws cfg { s with fb := m } = rxDraws cfg s := by
      have hw : allWritten m 0 s.flen.toNat = allWritten s.fb 0 s.flen.toNat :=
        allWritten_congr fun k _ hlt => h k (by omega)
      rw [rxDraws, hw, rxDraws]
    rw [decodeFrame_eq_report, decodeFrame_eq_report, hrx, hdraws]
    exact report_update_fb cfg s.mode s.flen.toNat (rxFrame s) { s with draws := rxDraws cfg s } m
  · have hover : txOverflows cfg { s with fb := m } = txOverflows cfg s := rfl
    have hhdr : txHeaderBytes cfg { s with fb := m } = txHeaderBytes cfg s :=
      txHeaderBytes_update cfg s (memRead_congr _ s _ _ rfl h)
    have hdraws : (afterPayloadRead { s with fb := m }).draws = (afterPayloadRead s).draws := by
      rw [afterPayloadRead_draws, allWritten_congr h, afterPayloadRead_draws]
    refine ⟨?_, fun hok a ha => ?_⟩
    · rw [encodeFrame_eq, encodeFrame_eq, hover, hhdr, hdraws]
      split <;> rfl
    · obtain ⟨hfits, heq⟩ := encodeFrame_of_err_none hok
      rw [heq, encodeFrame_eq, hover, hfits, if_neg Bool.false_ne_true, hhdr]
      have hlt : a < (txHeaderBytes cfg s).length := by rwa [txHeaderBytes_length]
      exact (Memory.get?_write_zero (List.getElem?_eq_getElem hlt)).trans
        (Memory.get?_write_zero (List.getElem?_eq_getElem hlt)).symm

/-- Settles O39: over written bytes neither command draws, and neither reads a free value
(`encodeFrame_update_draws`, `memRead_congr_written`). -/
theorem frameCommandsArePureOnWrittenBytes : Obligations.FrameCommandsArePureOnWrittenBytes := by
  refine ⟨fun cfg s d hw => encodeFrame_update_draws cfg s d hw, fun cfg s d hw => ?_⟩
  have hrx : rxFrame { s with draws := d } = rxFrame s :=
    memRead_congr_written _ s 0 _ hw fun _ _ _ => rfl
  rw [decodeFrame_of_allWritten cfg hw, decodeFrame_of_allWritten cfg (s := { s with draws := d }) hw, hrx]
  exact report_update_draws cfg s.mode s.flen.toNat (rxFrame s) s d

end Sys2Proof.Machine

end

/-! # ENCODE and DECODE together (spec/41_frame_codec.md section 3, spec/30_encoding.md section 2) -/

section

namespace Sys2Proof.Machine

open Sys2Proof

/-! ## The frame ENCODE builds -/

/-- The frame ENCODE builds: its header, then the payload it found (R130). -/
def txFrame (cfg : Config) (s : State) : List Byte := txHeaderBytes cfg s ++ txPayload s

theorem txFrame_length (cfg : Config) (s : State) : (txFrame cfg s).length = txFrameLen s := by
  rw [txFrame, List.length_append, txHeaderBytes_length, txPayload, memRead_length, txFrameLen]

theorem memRead_add (s : State) (i m n : Nat) : memRead s i (m + n) = memRead s i m ++ memRead s (i + m) n := by
  rw [memRead, memRead, memRead, ← List.map_append, List.range'_append_1]

/-- Reading a byte list where it has been written gives it back. -/
theorem memRead_of_write {s : State} {m : Memory} {i : Nat} {bs : List Byte} (h : s.fb = Memory.write m i bs) :
    memRead s i bs.length = bs := by
  refine List.ext_getElem (memRead_length _ _ _) fun k _ hk => ?_
  rw [memRead_getElem]
  exact readByte_of_get? s _ _ (by rw [h, Memory.get?_write_of_mem m bs i k hk])

/-- A state whose FB and FLEN are those a successful ENCODE left holds the frame the ENCODE built, where the payload was
written (R130). -/
theorem rxFrame_of_encoded {cfg : Config} {s u : State} (hw : allWritten s.fb (hdrLen s.mode) s.txPlen.toNat = true)
    (hfb : u.fb = Memory.write s.fb 0 (txHeaderBytes cfg s)) (hflen : u.flen.toNat = txFrameLen s) :
    rxFrame u = txFrame cfg s := by
  have hhdr : memRead u 0 (hdrLen s.mode) = txHeaderBytes cfg s := by
    rw [← txHeaderBytes_length cfg s]
    exact memRead_of_write hfb
  have hpayload : memRead u (hdrLen s.mode) s.txPlen.toNat = txPayload s :=
    (memRead_congr_written s u _ _ hw fun k hk _ => by rw [hfb, get?_write_txHeaderBytes_of_ge cfg s hk]).symm
  rw [rxFrame, hflen, txFrameLen, memRead_add, Nat.zero_add, hhdr, hpayload, txFrame]

/-! ## Its header fields -/

theorem hiByte_append_loByte (v : Half) : hiByte v ++ loByte v = v := BitVec.extractLsb'_append_extractLsb' (w := 8)

/-- The marker, the reserved byte, the sequence number, the length and the header bytes of a CPS or no-CRC frame, as
DECODE reads them (R132). -/
theorem txFrame_fields (cfg : Config) {s : State} (hm : s.mode ≠ .fw) :
    byteAt (txFrame cfg s) 0 = 0x7E ∧ byteAt (txFrame cfg s) 1 = s.txType ∧ byteAt (txFrame cfg s) 2 = 0x00 ∧
    byteAt (txFrame cfg s) 3 = s.txFlags ∧ byteAt (txFrame cfg s) 4 = s.txSrc ∧ byteAt (txFrame cfg s) 5 = s.txDest ∧
    rdBE16 (txFrame cfg s) 6 = s.txSeq ∧ rdBE16 (txFrame cfg s) 8 = BitVec.ofNat 16 (txFrameLen s) := by
  obtain ⟨slot, hslot⟩ := txHeaderBytes_eq_append cfg hm
  rw [txFrame, hslot]
  exact ⟨rfl, rfl, rfl, rfl, rfl, rfl, hiByte_append_loByte s.txSeq, hiByte_append_loByte _⟩

/-- The header of a firmware frame (R133). -/
theorem txFrame_fw (cfg : Config) {s : State} (hm : s.mode = .fw) :
    txFrame cfg s =
      txFwLength cfg s ++ le16 (cfg.fwCrc16 (txFwLength cfg s ++ crcPlaceholder ++ txPayload s)) ++ txPayload s := by
  simp only [txFrame, txHeaderBytes, hm]

theorem txFrame_cps (cfg : Config) {s : State} (hm : s.mode = .cps) :
    txFrame cfg s =
      txHeader s ++ le16 (crc16Cps cfg.oddTail (txHeader s ++ crcPlaceholder ++ txPayload s)) ++ txPayload s := by
  simp only [txFrame, txHeaderBytes, hm]

/-- The declared length of a firmware frame (R133). -/
theorem txFrame_fwLength (cfg : Config) {s : State} (hm : s.mode = .fw) :
    rdLE16 (txFrame cfg s) 0 = BitVec.ofNat 16 (s.txPlen.toNat + cfg.fwLenBase) := by
  rw [txFrame_fw cfg hm]
  exact hiByte_append_loByte _

/-- The checksum ENCODE stores is the one DECODE computes, in every mode: each takes the frame with its own slot at the
placeholder (R130, R134). -/
theorem txFrame_declaredCrc (cfg : Config) (s : State) :
    declaredCrc s.mode (txFrame cfg s) = computedCrc cfg s.mode (txFrame cfg s) := by
  cases hm : s.mode with
  | cps =>
    rw [txFrame_cps cfg hm]
    exact hiByte_append_loByte _
  | fw =>
    rw [txFrame_fw cfg hm]
    exact hiByte_append_loByte _
  | nocrc => rfl

/-! ## The checks it passes -/

section

variable {cfg : Config} {s u : State}

theorem markerFits_of_txFrame (hrx : rxFrame u = txFrame cfg s) (hmode : u.mode = s.mode) : MarkerFits u := by
  rw [markerFits_iff, hrx, txFrame_length, hmode]
  intro hmark
  have hm : s.mode ≠ .fw := fun hfw => by rw [hfw] at hmark; contradiction
  obtain ⟨hmarker, -⟩ := txFrame_fields cfg hm
  have hpos := hdrLen_cases s.mode
  exact ⟨by rw [txFrameLen]; omega, hmarker⟩

theorem lengthFits_of_txFrame (hrx : rxFrame u = txFrame cfg s) (hmode : u.mode = s.mode)
    (hmax : txFrameLen s ≤ 0xFFFF) : LengthFits cfg u := by
  rw [lengthFits_iff, hrx, hmode]
  cases hm : s.mode with
  | cps | nocrc =>
    have hne : s.mode ≠ .fw := by rw [hm]; decide
    obtain ⟨-, -, -, -, -, -, -, hlen⟩ := txFrame_fields cfg hne
    rw [lengthAgrees, hlen, txFrame_length, BitVec.toNat_ofNat, Nat.mod_eq_of_lt (by omega), beq_self_eq_true]
  | fw =>
    have hbase := fwLenBase_cases cfg
    have hlen : txFrameLen s = 4 + s.txPlen.toNat := by rw [txFrameLen, hm, hdrLen]
    rw [lengthAgrees, txFrame_fwLength cfg hm, txFrame_length, hlen, BitVec.toNat_ofNat, Nat.mod_eq_of_lt (by omega),
      Nat.add_sub_cancel_left, beq_self_eq_true]

/-- DECODE accepts the frame ENCODE built, and its checksums agree (R142). -/
theorem decodeFrame_of_txFrame (hfits : txOverflows cfg s = false) (hrx : rxFrame u = txFrame cfg s)
    (hflen : u.flen.toNat = txFrameLen s) (hmode : u.mode = s.mode) :
    decodeFrame cfg u =
      { captureFields s.mode (txFrame cfg s) (afterRead u 0 u.flen.toNat) with
        rxDecl := declaredCrc s.mode (txFrame cfg s), rxCalc := declaredCrc s.mode (txFrame cfg s)
        rxv := true, crcm := false, err := .none } := by
  obtain ⟨hmax, hbuf⟩ := txFrameLen_le hfits
  have hhdr : hdrLen u.mode ≤ u.flen.toNat := by rw [hmode, hflen]; exact Nat.le_add_right _ _
  rw [decodeFrame_of_fits (by omega) (markerFits_of_txFrame hrx hmode) hhdr (lengthFits_of_txFrame hrx hmode hmax),
    hmode, hrx, acceptFrame_of_eq _ _ _ _ (txFrame_declaredCrc cfg s)]

end

/-! ## What `captureFields` stores -/

@[simp] theorem captureFields_rxPlen (m : Mode) (f : List Byte) (s : State) :
    (captureFields m f s).rxPlen = BitVec.ofNat 16 (f.length - hdrLen m) := by cases m <;> rfl

@[simp] theorem captureFields_rxPoff (m : Mode) (f : List Byte) (s : State) :
    (captureFields m f s).rxPoff = BitVec.ofNat 8 (hdrLen m) := by cases m <;> rfl

@[simp] theorem captureFields_fb (m : Mode) (f : List Byte) (s : State) : (captureFields m f s).fb = s.fb := by
  cases m <;> rfl

theorem captureFields_of_ne_fw {m : Mode} (hm : m ≠ .fw) (f : List Byte) (s : State) :
    (captureFields m f s).rxType = byteAt f 1 ∧ (captureFields m f s).rxFlags = byteAt f 3 ∧
    (captureFields m f s).rxSrc = byteAt f 4 ∧ (captureFields m f s).rxDest = byteAt f 5 ∧
    (captureFields m f s).rxSeq = rdBE16 f 6 := by
  cases m with
  | cps | nocrc => exact ⟨rfl, rfl, rfl, rfl, rfl⟩
  | fw => exact absurd rfl hm

theorem hdrLen_toByte (m : Mode) : (BitVec.ofNat 8 (hdrLen m)).toNat = hdrLen m := by cases m <;> rfl

/-! ## The checksum check is soft -/

/-- The declared length an accepted frame leaves in DLEN (R138, R139). -/
theorem captureFields_rxDlen {cfg : Config} {m : Mode} {f : List Byte} (hhdr : hdrLen m ≤ f.length)
    (hmax : f.length ≤ 0xFFFF) (hlen : lengthAgrees cfg m f = true) (s : State) :
    (captureFields m f s).rxDlen.toNat =
      (captureFields m f s).rxPlen.toNat + (if m = .fw then cfg.fwLenBase else hdrLen m) := by
  have hplen : (captureFields m f s).rxPlen.toNat = f.length - hdrLen m := by
    rw [captureFields_rxPlen, BitVec.toNat_ofNat, Nat.mod_eq_of_lt (by omega)]
  rw [hplen]
  cases m with
  | cps | nocrc =>
    rw [if_neg (by decide), Nat.sub_add_cancel hhdr]
    exact beq_iff_eq.1 hlen
  | fw => exact beq_iff_eq.1 hlen

/-! ## The statements -/

/-- Settles O31: DECODE's reading of the frame ENCODE built (`rxFrame_of_encoded`, `txFrame_fields`,
`txFrame_declaredCrc`). -/
theorem encodedFramesMeetTheWireInvariants : Obligations.EncodedFramesMeetTheWireInvariants := by
  intro cfg s hok hw f
  obtain ⟨hfits, heq⟩ := encodeFrame_of_err_none hok
  obtain ⟨hmax, -⟩ := txFrameLen_le hfits
  have hflen : (BitVec.ofNat 16 (txFrameLen s)).toNat = txFrameLen s := by
    rw [BitVec.toNat_ofNat, Nat.mod_eq_of_lt (by omega)]
  have hf : f = txFrame cfg s := rxFrame_of_encoded hw (by rw [heq]) (by rw [heq, hflen])
  have hlength : f.length = txFrameLen s := by rw [hf, txFrame_length]
  have hcrc := txFrame_declaredCrc cfg s
  rw [← hf] at hcrc
  refine ⟨hlength, fun hm => ?_, fun hm => ⟨?_, ?_⟩, fun hm => ?_⟩
  · obtain ⟨hmarker, -, hrsvd, -, -, -, -, hlen⟩ := txFrame_fields cfg hm
    rw [← hf] at hmarker hrsvd hlen
    exact ⟨hmarker, hrsvd, by rw [hlen, hflen, hlength]⟩
  · have hagrees := (lengthFits_iff cfg (encodeFrame cfg s)).1
      (lengthFits_of_txFrame hf (by rw [heq]) hmax)
    have hmode : (encodeFrame cfg s).mode = .fw := by rw [heq]; exact hm
    rw [hmode] at hagrees
    exact beq_iff_eq.1 hagrees
  · rw [hm] at hcrc
    exact hcrc
  · rw [hm] at hcrc
    exact hcrc

/-- Settles O35: the checks before the checksum decide acceptance (`decodeFrame_of_fits`), and the checksums decide the
flags (`acceptFrame_eq`). -/
theorem crcMismatchStillAcceptsTheFrame : Obligations.CrcMismatchStillAcceptsTheFrame := by
  intro cfg s hbuf hmark hhdr hlen t
  have hmax := (bufBytes_bounds cfg).2
  have ht : t = acceptFrame cfg s.mode (rxFrame s) (afterRead s 0 s.flen.toNat) :=
    decodeFrame_of_fits hbuf hmark hhdr hlen
  rw [acceptFrame_eq] at ht
  rw [ht]
  refine ⟨rfl, rfl, rfl, ?_, fun hne => ⟨bne_iff_ne.2 hne, if_neg hne⟩, fun heq => ⟨?_, if_pos heq⟩⟩
  · exact captureFields_rxDlen (by rwa [rxFrame_length]) (by rw [rxFrame_length]; omega)
      ((lengthFits_iff cfg s).1 hlen) _
  · exact bne_eq_false_iff_eq.2 heq

/-- Settles O40: the state DECODE finds holds the frame ENCODE built (`rxFrame_of_encoded`), which passes every check
(`decodeFrame_of_txFrame`); each field is read where it was written (`txFrame_fields`), and neither command touches the
payload. -/
theorem decodeOfEncodeRoundTrip : Obligations.DecodeOfEncodeRoundTrip := by
  intro cfg s u hok hw hfb hflen hmode t
  obtain ⟨hfits, heq⟩ := encodeFrame_of_err_none hok
  obtain ⟨hmax, -⟩ := txFrameLen_le hfits
  rw [heq] at hfb hflen
  have hn : u.flen.toNat = txFrameLen s := by
    rw [hflen, BitVec.toNat_ofNat, Nat.mod_eq_of_lt (by omega)]
  have ht : t = _ := decodeFrame_of_txFrame hfits (rxFrame_of_encoded hw hfb hn) hn hmode
  have hpoff : t.rxPoff.toNat = hdrLen s.mode := by rw [ht, captureFields_rxPoff, hdrLen_toByte]
  have hplen : t.rxPlen = s.txPlen := by
    rw [ht, captureFields_rxPlen, txFrame_length, txFrameLen, Nat.add_sub_cancel_left, ofNat_eq_of_toNat rfl]
  have hpayload (k : Nat) : Memory.get? t.fb (t.rxPoff.toNat + k) = Memory.get? s.fb (hdrLen s.mode + k) := by
    rw [hpoff, ht, captureFields_fb, afterRead_fb, hfb, get?_write_txHeaderBytes_of_ge cfg s (Nat.le_add_right _ _)]
  have hheader : s.mode ≠ .fw → t.rxType = s.txType ∧ t.rxFlags = s.txFlags ∧ t.rxSrc = s.txSrc ∧
      t.rxDest = s.txDest ∧ t.rxSeq = s.txSeq := fun hm => by
    obtain ⟨-, htype, -, hflags, hsrc, hdest, hseq, -⟩ := txFrame_fields cfg hm
    rw [ht, ← htype, ← hflags, ← hsrc, ← hdest, ← hseq]
    exact captureFields_of_ne_fw hm _ _
  exact ⟨by rw [ht], by rw [ht], by rw [ht], hheader, hplen, hpoff, by rw [ht], fun k _ => hpayload k⟩

end Sys2Proof.Machine

end

/-! # One changed byte of a correct CPS frame (spec/41_frame_codec.md R143) -/

section

namespace Sys2Proof.Machine

open Sys2Proof

/-! ## A changed byte in a byte list -/

theorem byteAt_set_self {f : List Byte} {j : Nat} (b : Byte) (h : j < f.length) : byteAt (f.set j b) j = b := by
  rw [byteAt, List.getD_eq_getElem _ _ (by rwa [List.length_set]), List.getElem_set_self]

theorem byteAt_set_of_ne (f : List Byte) {j k : Nat} (b : Byte) (h : k ≠ j) : byteAt (f.set j b) k = byteAt f k := by
  rw [byteAt, byteAt, List.getD_eq_getElem?_getD, List.getD_eq_getElem?_getD, List.getElem?_set_ne h.symm]

theorem rdBE16_set_of_ne (f : List Byte) {j i : Nat} (b : Byte) (h0 : i ≠ j) (h1 : i + 1 ≠ j) :
    rdBE16 (f.set j b) i = rdBE16 f i := by
  rw [rdBE16, rdBE16, byteAt_set_of_ne f b h0, byteAt_set_of_ne f b h1]

theorem rdLE16_set_of_ne (f : List Byte) {j i : Nat} (b : Byte) (h0 : i ≠ j) (h1 : i + 1 ≠ j) :
    rdLE16 (f.set j b) i = rdLE16 f i := by
  rw [rdLE16, rdLE16, byteAt_set_of_ne f b h0, byteAt_set_of_ne f b h1]

/-- Changing either byte of a big-endian field changes the field. -/
theorem rdBE16_set_ne {f : List Byte} {j i : Nat} {b : Byte} (hj : j < f.length) (hb : byteAt f j ≠ b)
    (h : j = i ∨ j = i + 1) : rdBE16 (f.set j b) i ≠ rdBE16 f i := by
  intro heq
  have hval := congrArg BitVec.toNat heq
  have hne : (byteAt f j).toNat ≠ b.toNat := fun h => hb (BitVec.eq_of_toNat_eq h)
  rw [rdBE16, rdBE16, word_toNat, word_toNat] at hval
  rcases h with rfl | rfl
  · rw [byteAt_set_self b hj, byteAt_set_of_ne f b (Nat.succ_ne_self _)] at hval
    omega
  · rw [byteAt_set_self b hj, byteAt_set_of_ne f b (Nat.succ_ne_self _).symm] at hval
    omega

/-- Changing one byte changes the sum of the words by the difference, once or 256 times (R101). -/
theorem wordSum_set {f : List Byte} {j : Nat} (b : Byte) (h : j < f.length) :
    wordSum (frameWords .padZero (f.set j b)) + 256 ^ (j % 2) * (byteAt f j).toNat =
      wordSum (frameWords .padZero f) + 256 ^ (j % 2) * b.toNat := by
  induction f using List.twoStepInduction generalizing j with
  | nil => contradiction
  | singleton x =>
    obtain rfl : j = 0 := by simpa using h
    rw [List.set_cons_zero, frameWords_singleton_padZero, frameWords_singleton_padZero, wordSum_cons, wordSum_cons,
      word_toNat, word_toNat, Nat.zero_mod, pow_zero, show byteAt [x] 0 = x from rfl]
    omega
  | cons_cons lo hi rest ih _ =>
    match j with
    | 0 =>
      rw [List.set_cons_zero, frameWords_cons_cons, frameWords_cons_cons, wordSum_cons, wordSum_cons, word_toNat,
        word_toNat, Nat.zero_mod, pow_zero, show byteAt (lo :: hi :: rest) 0 = lo from rfl]
      omega
    | 1 =>
      rw [List.set_cons_succ, List.set_cons_zero, frameWords_cons_cons, frameWords_cons_cons, wordSum_cons,
        wordSum_cons, word_toNat, word_toNat, show 256 ^ (1 % 2) = 256 from rfl,
        show byteAt (lo :: hi :: rest) 1 = hi from rfl]
      omega
    | j + 2 =>
      have hrest := ih (j := j) (by simpa using h)
      rw [List.set_cons_succ, List.set_cons_succ, frameWords_cons_cons, frameWords_cons_cons, wordSum_cons,
        wordSum_cons, Nat.add_mod_right, show byteAt (lo :: hi :: rest) (j + 2) = byteAt rest j from rfl]
      omega

/-- The sum of the words of a correct frame is a multiple of 0xFFFF (R107). -/
theorem wordSum_mod_of_ocSum {o : OddTail} {f : List Byte} (h : ocSum o f = 0xFFFF) :
    wordSum (frameWords o f) % 0xFFFF = 0 := by
  rw [← ocFold_mod, ← ocSum_toNat, h]
  rfl

/-- One changed byte takes the sum of the words off the multiples of 0xFFFF: it changes it by less than 0xFFFF. -/
theorem ocSum_set_ne {f : List Byte} {j : Nat} {b : Byte} (hj : j < f.length) (hb : byteAt f j ≠ b)
    (h : ocSum .padZero f = 0xFFFF) : ocSum .padZero (f.set j b) ≠ 0xFFFF := by
  intro h'
  have hmod := wordSum_mod_of_ocSum h
  have hmod' := wordSum_mod_of_ocSum h'
  have hset := wordSum_set b hj
  have hne : (byteAt f j).toNat ≠ b.toNat := fun h => hb (BitVec.eq_of_toNat_eq h)
  have hold := (byteAt f j).isLt
  have hnew := b.isLt
  rcases Nat.mod_two_eq_zero_or_one j with hpar | hpar <;> rw [hpar] at hset <;> omega

/-- Under IGNORE the last byte of an odd-length list is in no word (R101). -/
theorem frameWords_ignore_set_last {f : List Byte} (b : Byte) (h : f.length % 2 = 1) :
    frameWords .ignore (f.set (f.length - 1) b) = frameWords .ignore f := by
  have htail {g : List Byte} (hg : g.length % 2 = 1) : frameWords .ignore g = pairWords g := by
    rw [frameWords_eq_pairWords_append, drop_pairs_of_odd hg, frameWords_singleton_ignore, List.append_nil]
  rw [htail h, htail (by rwa [List.length_set]), pairWords, pairWords, List.length_set]
  refine List.map_congr_left fun k hk => ?_
  rw [List.mem_range] at hk
  rw [byteAt_set_of_ne f b (by omega), byteAt_set_of_ne f b (by omega)]

/-! ## Frames that decode without an error -/

/-- DECODE reports no error exactly for a frame in FB that passes every check, the checksum's included (R140). -/
theorem decodeFrame_err_eq_none_iff (cfg : Config) (s : State) :
    (decodeFrame cfg s).err = .none ↔
      s.flen.toNat ≤ cfg.bufBytes ∧ (MarkerFits s ∧ hdrLen s.mode ≤ s.flen.toNat ∧ LengthFits cfg s) ∧
        declaredCrc s.mode (rxFrame s) = computedCrc cfg s.mode (rxFrame s) := by
  constructor
  · intro h
    rcases decodeFrame_cases cfg s with ⟨-, heq⟩ | ⟨-, e, he, heq⟩ | ⟨hle, hnone, heq⟩
    · rw [heq] at h
      contradiction
    · rw [heq] at h
      rcases frameError_cases _ _ _ _ he with rfl | rfl <;> contradiction
    · refine ⟨hle, (frameError_rxFrame_eq_none_iff cfg s).1 hnone, ?_⟩
      by_contra hne
      rw [heq, ← rxFrame, acceptFrame_of_ne _ _ _ _ hne] at h
      contradiction
  · rintro ⟨hle, ⟨hmark, hhdr, hlen⟩, hcrc⟩
    rw [decodeFrame_of_fits hle hmark hhdr hlen, acceptFrame_of_eq _ _ _ _ hcrc]

/-- The state with the byte of FB at `j` changed to `b` (R143). -/
def corrupt (s : State) (j : Nat) (b : Byte) : State := { s with fb := Memory.set s.fb j b }

@[simp] theorem corrupt_mode (s : State) (j : Nat) (b : Byte) : (corrupt s j b).mode = s.mode := rfl

@[simp] theorem corrupt_flen (s : State) (j : Nat) (b : Byte) : (corrupt s j b).flen = s.flen := rfl

theorem rxFrame_corrupt (s : State) (j : Nat) (b : Byte) : rxFrame (corrupt s j b) = (rxFrame s).set j b := by
  refine List.ext_getElem (by rw [List.length_set, rxFrame_length, rxFrame_length, corrupt_flen]) fun k hk _ => ?_
  rw [List.getElem_set]
  simp only [rxFrame, corrupt, memRead_getElem, Nat.zero_add]
  split
  · next heq => exact readByte_of_get? _ _ _ (heq ▸ Memory.get?_set_self _ _ _)
  · next hne => rw [readByte, Memory.get?_set_of_ne _ _ (Ne.symm hne), readByte]

/-- A written byte other than `b` reads as a byte other than `b`. -/
theorem byteAt_rxFrame_ne {s : State} {j : Nat} {b : Byte} (hw : allWritten s.fb 0 s.flen.toNat = true)
    (hj : j < s.flen.toNat) (hb : Memory.get? s.fb j ≠ some b) : byteAt (rxFrame s) j ≠ b := by
  obtain ⟨c, hc⟩ := Option.isSome_iff_exists.1 ((allWritten_iff _ _ _).1 hw j (Nat.zero_le j) (by omega))
  rw [rxFrame, byteAt_memRead _ _ _ _ hj, Nat.zero_add, readByte_of_get? s j c hc]
  exact fun h => hb (h ▸ hc)

/-- In CPS mode the marker check reads byte 0 (R135). -/
theorem markerFits_cps_iff {s : State} (hm : s.mode = .cps) (hpos : s.flen.toNat ≠ 0) :
    MarkerFits s ↔ byteAt (rxFrame s) 0 = 0x7E := by
  rw [markerFits_iff, rxFrame_length, hm]
  simp [hasMarker, hpos, startMarker]

/-- In CPS mode the length check reads bytes 8 and 9 (R136). -/
theorem lengthFits_cps_iff (cfg : Config) {s : State} (hm : s.mode = .cps) :
    LengthFits cfg s ↔ (rdBE16 (rxFrame s) 8).toNat = s.flen.toNat := by
  simp [LengthFits, hm]

/-- Frames with the same sum of words and the same declared checksum have the same recomputed checksum. -/
theorem crc16Cps_zeroSlot_congr {o : OddTail} {f g : List Byte} (hf : 12 ≤ f.length) (hg : 12 ≤ g.length)
    (hsum : wordSum (frameWords o f) = wordSum (frameWords o g)) (hdecl : rdLE16 f 10 = rdLE16 g 10) :
    crc16Cps o (zeroSlot f 10) = crc16Cps o (zeroSlot g 10) := by
  rw [wordSum_eq_slot_add o hf, wordSum_eq_slot_add o hg, hdecl] at hsum
  refine congrArg (~~~ ·) (ocSum_congr ?_)
  rw [wordSum_zeroSlot o hf, wordSum_zeroSlot o hg]
  exact Nat.add_right_cancel hsum

/-! ## One changed byte -/

section

variable {cfg : Config} {s : State} {j : Nat} {b : Byte}

/-- The marker check of the changed frame, for a byte other than the marker. -/
theorem markerFits_corrupt (hm : s.mode = .cps) (hpos : s.flen.toNat ≠ 0) (hj : j ≠ 0) (hmark : MarkerFits s) :
    MarkerFits (corrupt s j b) := by
  rw [markerFits_cps_iff hm hpos] at hmark
  rwa [markerFits_cps_iff (s := corrupt s j b) hm hpos, rxFrame_corrupt, byteAt_set_of_ne _ b hj.symm]

/-- The length check of the changed frame, for a byte outside the length field. -/
theorem lengthFits_corrupt (hm : s.mode = .cps) (h8 : j ≠ 8) (h9 : j ≠ 9) (hlen : LengthFits cfg s) :
    LengthFits cfg (corrupt s j b) := by
  rw [lengthFits_cps_iff cfg hm] at hlen
  rwa [lengthFits_cps_iff cfg (s := corrupt s j b) hm, rxFrame_corrupt, rdBE16_set_of_ne _ b h8.symm h9.symm]

/-- Another byte 0 is a bad marker (R135). -/
theorem decodeFrame_corrupt_marker (hm : s.mode = .cps) (hbuf : s.flen.toNat ≤ cfg.bufBytes) (hpos : s.flen.toNat ≠ 0)
    (hmark : MarkerFits s) (hb : byteAt (rxFrame s) 0 ≠ b) :
    (decodeFrame cfg (corrupt s 0 b)).err = .badMarker := by
  have hlt : 0 < (rxFrame s).length := by rw [rxFrame_length]; omega
  have hnot : ¬ MarkerFits (corrupt s 0 b) := by
    rw [markerFits_cps_iff hm hpos] at hmark
    rw [markerFits_cps_iff (s := corrupt s 0 b) hm hpos, rxFrame_corrupt, byteAt_set_self b hlt]
    exact fun h => hb (hmark.trans h.symm)
  rw [decodeFrame_of_frameError (s := corrupt s 0 b) hbuf ((frameError_eq_badMarker_iff cfg _).2 hnot)]

/-- Another byte in the length field is a wrong length (R136). -/
theorem decodeFrame_corrupt_length (hm : s.mode = .cps) (hbuf : s.flen.toNat ≤ cfg.bufBytes) (hpos : s.flen.toNat ≠ 0)
    (hmark : MarkerFits s) (hlen : LengthFits cfg s) (hj : j < s.flen.toNat) (h89 : j = 8 ∨ j = 9)
    (hb : byteAt (rxFrame s) j ≠ b) :
    (decodeFrame cfg (corrupt s j b)).err = .lengthMismatch := by
  have hnot : ¬ LengthFits cfg (corrupt s j b) := by
    rw [lengthFits_cps_iff cfg hm] at hlen
    rw [lengthFits_cps_iff cfg (s := corrupt s j b) hm, rxFrame_corrupt]
    exact fun h => rdBE16_set_ne (by rwa [rxFrame_length]) hb h89 (BitVec.eq_of_toNat_eq (h.trans hlen.symm))
  have hmark' : MarkerFits (corrupt s j b) := markerFits_corrupt hm hpos (by omega) hmark
  rw [decodeFrame_of_frameError (s := corrupt s j b) hbuf (frameError_of_markerFits hmark' (.inr hnot))]

/-- Another byte elsewhere is a wrong checksum, if no byte is left out of the sum: the words of the changed frame cannot
sum to 0xFFFF as those of the correct one do (`ocSum_set_ne`), whether the byte is in the checksum slot or not. -/
theorem decodeFrame_corrupt_other (hodd : cfg.oddTail = .padZero) (hm : s.mode = .cps)
    (hok : (decodeFrame cfg s).err = .none) (hj : j < s.flen.toNat) (h0 : j ≠ 0) (h8 : j ≠ 8) (h9 : j ≠ 9) (hb : byteAt (rxFrame s) j ≠ b) :
    decodeFrame cfg (corrupt s j b) =
      { captureFields .cps ((rxFrame s).set j b) (afterRead (corrupt s j b) 0 s.flen.toNat) with
        rxDecl := declaredCrc .cps ((rxFrame s).set j b), rxCalc := computedCrc cfg .cps ((rxFrame s).set j b)
        rxv := true, crcm := true, err := .crc16Mismatch } := by
  obtain ⟨hbuf, ⟨hmark, hhdr, hlen⟩, hcrc⟩ := (decodeFrame_err_eq_none_iff cfg s).1 hok
  rw [hm] at hcrc hhdr
  have h12 : 12 ≤ (rxFrame s).length := by rwa [rxFrame_length]
  have hpos : s.flen.toNat ≠ 0 := Nat.ne_zero_of_lt hj
  have hne : declaredCrc .cps ((rxFrame s).set j b) ≠ computedCrc cfg .cps ((rxFrame s).set j b) := by
    intro hcrc'
    have hsum := ocSum_of_correct h12 hcrc
    have hsum' := ocSum_of_correct (f := (rxFrame s).set j b) (by rwa [List.length_set]) hcrc'
    rw [hodd] at hsum hsum'
    exact ocSum_set_ne (by rwa [rxFrame_length]) hb hsum hsum'
  rw [decodeFrame_of_fits (s := corrupt s j b) hbuf (markerFits_corrupt hm hpos h0 hmark) (by rwa [corrupt_mode, hm])
    (lengthFits_corrupt hm h8 h9 hlen), rxFrame_corrupt, corrupt_mode, corrupt_flen, hm, acceptFrame_of_ne _ _ _ _ hne]

/-- Under IGNORE another last byte of an odd-length frame beyond the header changes no word (R101). -/
theorem decodeFrame_corrupt_ignored (hodd : cfg.oddTail = .ignore) (hm : s.mode = .cps)
    (hok : (decodeFrame cfg s).err = .none) (h12 : 12 < s.flen.toNat) (hlenOdd : s.flen.toNat % 2 = 1) :
    (decodeFrame cfg (corrupt s (s.flen.toNat - 1) b)).err = .none := by
  obtain ⟨hbuf, ⟨hmark, hhdr, hlen⟩, hcrc⟩ := (decodeFrame_err_eq_none_iff cfg s).1 hok
  refine (decodeFrame_err_eq_none_iff cfg _).2 ⟨hbuf,
    ⟨markerFits_corrupt hm (by omega) (by omega) hmark, hhdr, lengthFits_corrupt hm (by omega) (by omega) hlen⟩, ?_⟩
  have hlength := rxFrame_length s
  have hwords : frameWords .ignore ((rxFrame s).set (s.flen.toNat - 1) b) = frameWords .ignore (rxFrame s) := by
    rw [← hlength]
    exact frameWords_ignore_set_last b (by rwa [hlength])
  have hdecl : rdLE16 ((rxFrame s).set (s.flen.toNat - 1) b) 10 = rdLE16 (rxFrame s) 10 :=
    rdLE16_set_of_ne _ b (by omega) (by omega)
  rw [hm, declaredCrc, computedCrc, hodd] at hcrc
  rw [rxFrame_corrupt, corrupt_mode, hm, declaredCrc, computedCrc, hodd, hdecl, hcrc]
  exact (crc16Cps_zeroSlot_congr (by rw [List.length_set]; omega) (by omega) (by rw [hwords]) hdecl).symm

end

/-- Settles O41: the byte is in the marker, in the length field, or elsewhere (`decodeFrame_corrupt_marker`,
`decodeFrame_corrupt_length`, `decodeFrame_corrupt_other`). -/
theorem singleByteCorruptionIsReported : Obligations.SingleByteCorruptionIsReported := by
  refine ⟨fun cfg s j b hodd hm hw hok hj hb => ?_,
    fun cfg s b hodd hm _ hok h12 hlenOdd => decodeFrame_corrupt_ignored hodd hm hok h12 hlenOdd⟩
  obtain ⟨hbuf, ⟨hmark, -, hlen⟩, -⟩ := (decodeFrame_err_eq_none_iff cfg s).1 hok
  have hpos : s.flen.toNat ≠ 0 := Nat.ne_zero_of_lt hj
  have hne := byteAt_rxFrame_ne hw hj hb
  intro u
  refine ⟨fun h0 => ?_, fun h89 => ?_, fun h0 h8 h9 => ?_⟩
  · subst h0
    exact decodeFrame_corrupt_marker hm hbuf hpos hmark hne
  · exact decodeFrame_corrupt_length hm hbuf hpos hmark hlen hj h89 hne
  · have hu : u = _ := decodeFrame_corrupt_other hodd hm hok hj h0 h8 h9 hne
    rw [hu]
    exact ⟨rfl, rfl, rfl⟩

end Sys2Proof.Machine

end

/-! # What a step can change, and the invariant (spec/10_state.md, spec/20_memory.md section 4) -/

section

namespace Sys2Proof.Machine

open Sys2Proof

/-! ## Everything a step can do -/

/-- What one step can make of `s`. -/
inductive StepCase (s : State) : State → Prop where
  /-- Waiting, a read, or a write that is ignored: nothing but the model's own fields changes. -/
  | quiet (rest : List Input) (d : Nat) (readings : List Reading) :
      StepCase s { s with inputs := rest, draws := d, recorded := readings }
  /-- A buffer write below BUF_BYTES. -/
  | bufWrite (rest : List Input) (i : Nat) (b : Byte) (hin : s.inputs = .host (.bufWrite i b) :: rest)
      (hi : i < Config.here.bufBytes) : StepCase s { s with inputs := rest, fb := Memory.set s.fb i b }
  /-- A write to a register other than CMD. -/
  | regWrite (rest : List Input) (r : Reg) (v : Word) (hin : s.inputs = .host (.regWrite (regOffset r) v) :: rest) :
      StepCase s (writeReg { s with inputs := rest } r v)
  /-- A CMD write of an illegal word. -/
  | illegal (rest : List Input) (v : Word) (hin : s.inputs = .host (.regWrite 0x04 v) :: rest) :
      StepCase s { s with inputs := rest, err := .illegalCmd }
  /-- A CMD write of a command. -/
  | command (rest : List Input) (v : Word) (i : Instr) (hin : s.inputs = .host (.regWrite 0x04 v) :: rest)
      (hv : decode v = .ok i) : StepCase s (commandEffect i { s with inputs := rest })
  | hardReset (rest : List Input) (hin : s.inputs = .hardReset :: rest) :
      StepCase s (hardReset { s with inputs := rest })

/-- A step has one next state. -/
theorem StepCase.of_step {s t u : State} (hu : step s = .next u) (hcase : StepCase s u) (h : step s = .next t) :
    StepCase s t := by
  obtain rfl : u = t := Host.Outcome.next.inj (hu.symm.trans h)
  exact hcase

theorem stepCase_of_regWrite {s t : State} {off : Nat} {v : Word} {rest : List Input}
    (hin : s.inputs = .host (.regWrite off v) :: rest) (h : step s = .next t) : StepCase s t := by
  cases hoff : regAt off with
  | none => exact .of_step (step_regWrite_unmapped hoff hin) (.quiet rest s.draws s.recorded) h
  | some r =>
    obtain rfl := regAt_eq_some hoff
    by_cases hr : r = .cmd
    · subst hr
      cases hd : decode v with
      | ok i => exact .of_step (by rw [step_cmdWrite hin, issueCommand_ok hd, exec_eq]) (.command rest v i hin hd) h
      | error e =>
        exact .of_step (by rw [step_cmdWrite hin, issueCommand_error hd, illegalCommand_eq]) (.illegal rest v hin) h
    · exact .of_step (step_regWrite hr hin) (.regWrite rest r v hin) h

/-- Everything a step can do. -/
theorem stepCase {s t : State} (h : step s = .next t) : StepCase s t := by
  cases hin : s.inputs with
  | nil => exact .of_step (noInputMeansNoChange s hin) (.quiet s.inputs s.draws s.recorded) h
  | cons e rest =>
    cases e with
    | hardReset => exact .of_step (step_hardReset hin) (.hardReset rest hin) h
    | host a =>
      cases a with
      | regRead off => exact .of_step (step_regRead hin) (.quiet rest s.draws _) h
      | regWrite off v => exact stepCase_of_regWrite hin h
      | bufRead i =>
        rcases Nat.lt_or_ge i Config.here.bufBytes with hi | hi
        · exact .of_step (step_bufRead hi hin) (.quiet rest _ _) h
        · exact .of_step (step_bufRead_beyond hi hin) (.quiet rest s.draws _) h
      | bufWrite i b =>
        rcases Nat.lt_or_ge i Config.here.bufBytes with hi | hi
        · exact .of_step (step_bufWrite hi hin) (.bufWrite rest i b hin hi) h
        · exact .of_step (step_bufWrite_beyond hi hin) (.quiet rest s.draws s.recorded) h

/-! ## What a register write keeps -/

/-- A register write keeps every field of another register (R22 to R34). -/
theorem writeReg_keeps (s : State) (r : Reg) (v : Word) :
    (r = .ctrl ∨ (writeReg s r v).mode = s.mode) ∧ (r = .crcAcc ∨ (writeReg s r v).acc = s.acc) ∧
    (r = .flen ∨ (writeReg s r v).flen = s.flen) ∧ (r = .txHdr ∨ SameTxHdr s (writeReg s r v)) ∧
    (r = .txSeqPlen ∨ SameTxSeqPlen s (writeReg s r v)) := by
  cases r
  case ctrl =>
    cases hm : modeOfCode (v.extractLsb' 0 2) <;> simp [writeReg, hm, SameTxHdr, SameTxSeqPlen]
  all_goals simp [writeReg, SameTxHdr, SameTxSeqPlen]

/-- No register that the host writes is one of those DECODE writes (spec/10_state.md section 6). -/
theorem writeReg_keeps_rx (s : State) (r : Reg) (v : Word) :
    SameRx s (writeReg s r v) ∧ (writeReg s r v).err = s.err ∧ (writeReg s r v).fb = s.fb := by
  rw [writeReg_frame]
  simp [SameRx]

/-! ## What a command keeps -/

theorem encodeFrame_keeps (cfg : Config) (s : State) :
    SameRx s (encodeFrame cfg s) ∧ SameTxHdr s (encodeFrame cfg s) ∧ SameTxSeqPlen s (encodeFrame cfg s) ∧
    (encodeFrame cfg s).mode = s.mode ∧ (encodeFrame cfg s).acc = s.acc := by
  obtain ⟨⟨fb, n, e, d, heq⟩, -⟩ := encodeFrameCondition cfg s
  rw [heq]
  simp [SameRx, SameTxHdr, SameTxSeqPlen]

theorem decodeFrame_keeps (cfg : Config) (s : State) :
    SameTxHdr s (decodeFrame cfg s) ∧ SameTxSeqPlen s (decodeFrame cfg s) ∧ (decodeFrame cfg s).mode = s.mode ∧
    (decodeFrame cfg s).acc = s.acc ∧ (decodeFrame cfg s).flen = s.flen ∧ (decodeFrame cfg s).fb = s.fb := by
  rw [decodeFrame_eq_report, report_frame]
  simp [SameTxHdr, SameTxSeqPlen]

/-- Only SRST writes MODE and the TX registers (R22, R28, R29). -/
theorem commandEffect_keeps_tx (i : Instr) (s : State) :
    (∃ arg, i = .srst arg) ∨
    (commandEffect i s).mode = s.mode ∧ SameTxHdr s (commandEffect i s) ∧ SameTxSeqPlen s (commandEffect i s) := by
  cases i with
  | srst arg => exact .inl ⟨arg, rfl⟩
  | encode arg =>
    obtain ⟨-, hhdr, hseq, hmode, -⟩ := encodeFrame_keeps Config.here s
    exact .inr ⟨hmode, hhdr, hseq⟩
  | decode arg =>
    obtain ⟨hhdr, hseq, hmode, -⟩ := decodeFrame_keeps Config.here s
    exact .inr ⟨hmode, hhdr, hseq⟩
  | nop _ | crcClear _ | crcWord _ | crcByte _ => exact .inr ⟨rfl, ⟨rfl, rfl, rfl, rfl⟩, ⟨rfl, rfl⟩⟩

/-- Only DECODE and SRST write RXV, CRCM and the RX registers (R24, R37). -/
theorem commandEffect_keeps_rx (i : Instr) (s : State) :
    (∃ arg, i = .decode arg ∨ i = .srst arg) ∨ SameRx s (commandEffect i s) := by
  cases i with
  | decode arg => exact .inl ⟨arg, .inl rfl⟩
  | srst arg => exact .inl ⟨arg, .inr rfl⟩
  | encode arg =>
    obtain ⟨hrx, -⟩ := encodeFrame_keeps Config.here s
    exact .inr hrx
  | nop _ | crcClear _ | crcWord _ | crcByte _ => exact .inr (by simp [SameRx, commandEffect])

/-- Only the streaming commands and SRST write ACC (R25, R104). -/
theorem commandEffect_keeps_acc (i : Instr) (s : State) :
    (∃ arg, i = .crcClear arg ∨ i = .crcWord arg ∨ i = .crcByte arg ∨ i = .srst arg) ∨
    (commandEffect i s).acc = s.acc := by
  cases i with
  | nop _ => exact .inr rfl
  | encode _ =>
    obtain ⟨-, -, -, -, hacc⟩ := encodeFrame_keeps Config.here s
    exact .inr hacc
  | decode _ =>
    obtain ⟨-, -, -, hacc, -⟩ := decodeFrame_keeps Config.here s
    exact .inr hacc
  | crcClear arg | crcWord arg | crcByte arg | srst arg => exact .inl ⟨arg, by simp⟩

/-- Only ENCODE and SRST write FLEN (R27). -/
theorem commandEffect_keeps_flen (i : Instr) (s : State) :
    (∃ arg, i = .encode arg ∨ i = .srst arg) ∨ (commandEffect i s).flen = s.flen := by
  cases i with
  | encode arg => exact .inl ⟨arg, .inl rfl⟩
  | srst arg => exact .inl ⟨arg, .inr rfl⟩
  | decode _ =>
    obtain ⟨-, -, -, -, hflen, -⟩ := decodeFrame_keeps Config.here s
    exact .inr hflen
  | nop _ | crcClear _ | crcWord _ | crcByte _ => exact .inr rfl

/-- ENCODE changes FB only if it reports no error, and only below HDR_LEN(MODE) (R53, R131). -/
theorem encodeFrame_get?_ne {cfg : Config} {s : State} {a : Nat}
    (h : Memory.get? (encodeFrame cfg s).fb a ≠ Memory.get? s.fb a) :
    a < hdrLen s.mode ∧ (encodeFrame cfg s).err = .none := by
  rcases encodeFrame_cases cfg s with ⟨-, heq⟩ | ⟨-, heq⟩ <;> rw [heq] at h ⊢
  · exact absurd rfl h
  · exact ⟨Nat.lt_of_not_le fun hle => h (get?_write_txHeaderBytes_of_ge cfg s hle), rfl⟩

/-- Of the commands only ENCODE writes FB (R53). -/
theorem commandEffect_keeps_fb (i : Instr) (s : State) :
    (∃ arg, i = .encode arg) ∨ (commandEffect i s).fb = s.fb := by
  cases i with
  | encode arg => exact .inl ⟨arg, rfl⟩
  | decode _ =>
    obtain ⟨-, -, -, -, -, hfb⟩ := decodeFrame_keeps Config.here s
    exact .inr hfb
  | nop _ | crcClear _ | crcWord _ | crcByte _ | srst _ => exact .inr rfl

/-! ## FB in canonical form -/

theorem Memory.get?_cons_self (m : Memory) (a : Nat) (b : Byte) : Memory.get? ((a, b) :: m) a = some b := if_pos rfl

theorem Memory.get?_cons_of_ne (m : Memory) {a i : Nat} (b : Byte) (h : a ≠ i) :
    Memory.get? ((a, b) :: m) i = Memory.get? m i := if_neg h

theorem Memory.wf_cons_iff {m : Memory} {a : Nat} {b : Byte} :
    Memory.wf ((a, b) :: m) = true ↔ (∀ c ∈ m, a < c.1) ∧ Memory.wf m = true := by
  simp only [Memory.wf, Bool.and_eq_true, List.all_eq_true, decide_eq_true_eq]

/-- An index below every listed one is not listed. -/
theorem Memory.get?_eq_none_of_forall_lt {m : Memory} {i : Nat} (h : ∀ c ∈ m, i < c.1) : Memory.get? m i = none := by
  induction m with
  | nil => rfl
  | cons c m ih =>
    rw [List.forall_mem_cons] at h
    rw [Memory.get?_cons_of_ne m c.2 h.1.ne', ih h.2]

/-- An index below the first entry of a canonical buffer is not listed. -/
theorem Memory.get?_eq_none_of_lt_head {m : Memory} {a i : Nat} {b : Byte} (hwf : Memory.wf ((a, b) :: m) = true)
    (hi : i < a) : Memory.get? ((a, b) :: m) i = none := by
  obtain ⟨hlt, -⟩ := Memory.wf_cons_iff.1 hwf
  exact Memory.get?_eq_none_of_forall_lt (List.forall_mem_cons.2 ⟨hi, fun c hc => hi.trans (hlt c hc)⟩)

/-- If an index is listed, the first entry is at or below it. -/
theorem Memory.head_le_of_get? {m : Memory} {a i : Nat} {b c : Byte} (hwf : Memory.wf ((a, b) :: m) = true)
    (h : Memory.get? ((a, b) :: m) i = some c) : a ≤ i := by
  by_contra hlt
  rw [Memory.get?_eq_none_of_lt_head hwf (Nat.lt_of_not_le hlt)] at h
  contradiction

/-- A canonical buffer is determined by what it holds at each index. -/
theorem Memory.ext_of_wf {m m' : Memory} (hm : Memory.wf m = true) (hm' : Memory.wf m' = true)
    (h : ∀ i, Memory.get? m i = Memory.get? m' i) : m = m' := by
  induction m generalizing m' with
  | nil =>
    cases m' with
    | nil => rfl
    | cons c' m' => exact absurd ((h c'.1).trans (Memory.get?_cons_self m' c'.1 c'.2)) nofun
  | cons c m ih =>
    cases m' with
    | nil => exact absurd ((h c.1).symm.trans (Memory.get?_cons_self m c.1 c.2)) nofun
    | cons c' m' =>
      obtain ⟨a, b⟩ := c
      obtain ⟨a', b'⟩ := c'
      have ha : Memory.get? ((a', b') :: m') a = some b := (h a).symm.trans (Memory.get?_cons_self m a b)
      have ha' : Memory.get? ((a, b) :: m) a' = some b' := (h a').trans (Memory.get?_cons_self m' a' b')
      obtain rfl : a = a' := Nat.le_antisymm (Memory.head_le_of_get? hm ha') (Memory.head_le_of_get? hm' ha)
      obtain rfl : b' = b := Option.some_inj.1 ((Memory.get?_cons_self m' a b').symm.trans ha)
      obtain ⟨hlt, hwf⟩ := Memory.wf_cons_iff.1 hm
      obtain ⟨hlt', hwf'⟩ := Memory.wf_cons_iff.1 hm'
      refine congrArg _ (ih hwf hwf' fun i => ?_)
      by_cases hi : a = i
      · subst hi
        rw [Memory.get?_eq_none_of_forall_lt hlt, Memory.get?_eq_none_of_forall_lt hlt']
      · rw [← Memory.get?_cons_of_ne m b' hi, ← Memory.get?_cons_of_ne m' b' hi, h i]

/-! ## The statements about what can change -/

/-- Settles O52: of everything a step can do (`stepCase`), only a buffer write, an ENCODE and a hardware reset touch
FB. -/
theorem whatCanChangeABufferByte : Obligations.WhatCanChangeABufferByte := by
  intro s t a h hne
  cases stepCase h with
  | quiet => exact absurd rfl hne
  | bufWrite rest i b hin hi =>
    obtain rfl : a = i := by
      by_contra hai
      exact hne (Memory.get?_set_of_ne _ b hai)
    exact .inl ⟨hi, b, rest, hin⟩
  | regWrite rest r v hin =>
    obtain ⟨-, -, hfb⟩ := writeReg_keeps_rx { s with inputs := rest } r v
    exact absurd (by rw [hfb]) hne
  | illegal => exact absurd rfl hne
  | command rest v i hin hv =>
    rcases commandEffect_keeps_fb i { s with inputs := rest } with ⟨arg, rfl⟩ | hfb
    · obtain ⟨hlt, herr⟩ := encodeFrame_get?_ne (s := { s with inputs := rest }) hne
      exact .inr (.inl ⟨hlt, herr, v, _, rest, hin, hv, arg, rfl⟩)
    · exact absurd (by rw [hfb]) hne
  | hardReset rest hin => exact .inr (.inr ⟨rest, hin⟩)

/-- Settles O53: of everything a step can do (`stepCase`), only DECODE, SRST and a hardware reset touch RXV, CRCM and
the RX registers. -/
theorem whatCanChangeTheReceiveRegisters : Obligations.WhatCanChangeTheReceiveRegisters := by
  intro s t h
  cases stepCase h with
  | quiet | bufWrite | illegal => exact .inl (by simp [SameRx])
  | regWrite rest r v hin =>
    obtain ⟨hrx, -⟩ := writeReg_keeps_rx { s with inputs := rest } r v
    exact .inl hrx
  | command rest v i hin hv =>
    rcases commandEffect_keeps_rx i { s with inputs := rest } with hi | hrx
    · exact .inr (.inl ⟨v, i, rest, hin, hv, hi⟩)
    · exact .inl hrx
  | hardReset rest hin => exact .inr (.inr ⟨rest, hin⟩)

/-- Settles O54: a register write keeps the other registers (`writeReg_keeps`), and of the commands only SRST writes
these (`commandEffect_keeps_tx`). -/
theorem whatCanChangeModeAndTransmitRegisters : Obligations.WhatCanChangeModeAndTransmitRegisters := by
  intro s t h
  cases stepCase h with
  | quiet | bufWrite | illegal => exact ⟨.inl rfl, .inl ⟨rfl, rfl, rfl, rfl⟩, .inl ⟨rfl, rfl⟩⟩
  | regWrite rest r v hin =>
    have hwrites (r' : Reg) (hr : r = r') : NextWrites s (regOffset r') := ⟨v, rest, hr ▸ hin⟩
    obtain ⟨hmode, -, -, hhdr, hseq⟩ := writeReg_keeps { s with inputs := rest } r v
    exact ⟨hmode.symm.imp id fun hr => .inl (hwrites .ctrl hr), hhdr.symm.imp id fun hr => .inl (hwrites .txHdr hr),
      hseq.symm.imp id fun hr => .inl (hwrites .txSeqPlen hr)⟩
  | command rest v i hin hv =>
    rcases commandEffect_keeps_tx i { s with inputs := rest } with hi | ⟨hmode, hhdr, hseq⟩
    · have hnext : NextCommand s (fun i => ∃ arg, i = .srst arg) := ⟨v, i, rest, hin, hv, hi⟩
      exact ⟨.inr (.inr (.inl hnext)), .inr (.inr (.inl hnext)), .inr (.inr (.inl hnext))⟩
    · exact ⟨.inl hmode, .inl hhdr, .inl hseq⟩
  | hardReset rest hin =>
    have hreset : NextIsReset s := ⟨rest, hin⟩
    exact ⟨.inr (.inr (.inr hreset)), .inr (.inr (.inr hreset)), .inr (.inr (.inr hreset))⟩

/-- Settles O55: a register write keeps the other registers (`writeReg_keeps`) and ERR; the commands that write ACC and
FLEN are those of `commandEffect_keeps_acc` and `commandEffect_keeps_flen`. -/
theorem whatCanChangeAccFlenAndErr : Obligations.WhatCanChangeAccFlenAndErr := by
  intro s t h
  cases stepCase h with
  | quiet | bufWrite => exact ⟨.inl rfl, .inl rfl, .inl rfl⟩
  | regWrite rest r v hin =>
    have hwrites (r' : Reg) (hr : r = r') : NextWrites s (regOffset r') := ⟨v, rest, hr ▸ hin⟩
    obtain ⟨-, hacc, hflen, -⟩ := writeReg_keeps { s with inputs := rest } r v
    obtain ⟨-, herr, -⟩ := writeReg_keeps_rx { s with inputs := rest } r v
    exact ⟨hacc.symm.imp id fun hr => .inl (hwrites .crcAcc hr), hflen.symm.imp id fun hr => .inl (hwrites .flen hr),
      .inl herr⟩
  | illegal rest v hin => exact ⟨.inl rfl, .inl rfl, .inr (.inl ⟨v, rest, hin⟩)⟩
  | command rest v i hin hv =>
    have hacc := commandEffect_keeps_acc i { s with inputs := rest }
    have hflen := commandEffect_keeps_flen i { s with inputs := rest }
    exact ⟨hacc.symm.imp id fun hi => .inr (.inl ⟨v, i, rest, hin, hv, hi⟩),
      hflen.symm.imp id fun hi => .inr (.inl ⟨v, i, rest, hin, hv, hi⟩), .inr (.inl ⟨v, rest, hin⟩)⟩
  | hardReset rest hin =>
    have hreset : NextIsReset s := ⟨rest, hin⟩
    exact ⟨.inr (.inr (.inr hreset)), .inr (.inr (.inr hreset)), .inr (.inr hreset)⟩

/-- Settles O57: each buffer's first entry is at or below the other's (`Memory.head_le_of_get?`), so they are the same,
and behind it that index is not listed again (`Memory.get?_eq_none_of_forall_lt`). -/
theorem equalBuffersAreEqualData : Obligations.EqualBuffersAreEqualData := fun _ _ => Memory.ext_of_wf

/-! ## The invariant -/

/-- The RX part of the invariant speaks of the RX registers alone. -/
theorem rxAccepted_congr {cfg : Config} {s t : State} (h : SameRx s t) (hs : RxAccepted cfg s) : RxAccepted cfg t := by
  obtain ⟨-, -, htype, hflags, hsrc, hdest, hseq, hdlen, hdecl, hcalc, hrsvd, hpoff, hplen⟩ := h
  rwa [RxAccepted, htype, hflags, hsrc, hdest, hseq, hdlen, hdecl, hcalc, hrsvd, hpoff, hplen]

theorem rxClear_congr {s t : State} (h : SameRx s t) (hs : RxClear s) : RxClear t := by
  obtain ⟨-, -, htype, hflags, hsrc, hdest, hseq, hdlen, hdecl, hcalc, hrsvd, hpoff, hplen⟩ := h
  rwa [RxClear, htype, hflags, hsrc, hdest, hseq, hdlen, hdecl, hcalc, hrsvd, hpoff, hplen]

/-- Of the error codes only three, DECODE's own, bear on the invariant: a step that keeps the RX registers and reports
no such error keeps it, if it keeps FB in order. -/
theorem Inv.of_sameRx {cfg : Config} {s t : State} (h : Inv cfg s) (hrx : SameRx s t) (hwf : Memory.wf t.fb = true)
    (hbelow : Memory.below cfg.bufBytes t.fb = true)
    (herr : t.err = s.err ∨ t.err = .none ∨ t.err = .lenOverflow ∨ t.err = .illegalCmd) : Inv cfg t := by
  have hown {e : ErrCode} (he : e = .crc16Mismatch ∨ e = .badMarker ∨ e = .lengthMismatch) (ht : t.err = e) :
      s.err = e := by
    subst ht
    rcases herr with hs | hs | hs | hs
    · exact hs.symm
    all_goals rw [hs] at he; simp at he
  have hfields := hrx
  obtain ⟨hrxv, hcrcm, -, -, -, -, -, -, hdecl, hcalc, -⟩ := hfields
  refine ⟨hwf, hbelow, h.rx_shape.imp (rxClear_congr hrx) (rxAccepted_congr hrx), fun hv => ?_, ?_, fun he => ?_,
    fun he => ?_⟩
  · rw [hrxv] at hv
    obtain ⟨haccepted, hmismatch⟩ := h.rxv_accepted hv
    exact ⟨rxAccepted_congr hrx haccepted, by rw [hcrcm, hdecl, hcalc, hmismatch]⟩
  · rw [hrxv, hcrcm]
    exact h.crcm_rxv
  · rw [hcrcm]
    exact h.err_soft (hown (.inl rfl) he)
  · rw [hrxv]
    exact h.err_hard (he.imp (hown (.inr (.inl rfl))) (hown (.inr (.inr rfl))))

/-- With every register at its reset value the invariant asks only for FB. -/
theorem inv_resetRegisters {cfg : Config} {s : State} (hwf : Memory.wf s.fb = true)
    (hbelow : Memory.below cfg.bufBytes s.fb = true) : Inv cfg (resetRegisters s) :=
  ⟨hwf, hbelow, .inl (by simp [RxClear]), nofun, nofun, nofun, fun _ => rfl⟩

/-- A rejected frame leaves the RX registers and clears both flags (R141). -/
theorem Inv.rejected {cfg : Config} {s : State} (h : Inv cfg s) {e : ErrCode} (he : e ≠ .crc16Mismatch) (d : Nat) :
    Inv cfg { s with err := e, rxv := false, crcm := false, draws := d } :=
  ⟨h.fb_wf, h.fb_below, h.rx_shape, nofun, nofun, fun h => absurd h he, fun _ => rfl⟩

/-- What an accepted frame leaves in the RX registers (R138, R139). -/
theorem rxAccepted_acceptFrame {cfg : Config} {m : Mode} {f : List Byte} (hmax : f.length ≤ cfg.bufBytes)
    (hnone : frameError cfg m f = none) (s : State) : RxAccepted cfg (acceptFrame cfg m f s) := by
  obtain ⟨-, hhdr, hlen⟩ := (frameError_none_iff cfg m f).1 hnone
  have hbuf := (bufBytes_bounds cfg).2
  have hdlen := captureFields_rxDlen hhdr (by omega) hlen s
  have hpoff : (captureFields m f s).rxPoff.toNat = hdrLen m := by rw [captureFields_rxPoff, hdrLen_toByte]
  have hplen : (captureFields m f s).rxPlen.toNat = f.length - hdrLen m := by
    rw [captureFields_rxPlen, BitVec.toNat_ofNat, Nat.mod_eq_of_lt (by omega)]
  rw [acceptFrame_eq]
  refine ⟨by rw [hpoff, hplen]; omega, ?_⟩
  cases m with
  | cps => exact .inl ⟨rfl, hdlen⟩
  | nocrc => exact .inr (.inl ⟨rfl, hdlen, rfl, rfl⟩)
  | fw => exact .inr (.inr ⟨rfl, hdlen, rfl, rfl, rfl, rfl, rfl, rfl⟩)

theorem Inv.decodeFrame {cfg : Config} {s : State} (h : Inv cfg s) : Inv cfg (decodeFrame cfg s) := by
  rcases decodeFrame_cases cfg s with ⟨-, heq⟩ | ⟨-, e, he, heq⟩ | ⟨hle, hnone, heq⟩
  · rw [heq]
    exact h.rejected (by decide) s.draws
  · rw [heq]
    exact h.rejected (by rcases frameError_cases _ _ _ _ he with rfl | rfl <;> decide) _
  · have hrx := rxAccepted_acceptFrame (by rwa [memRead_length]) hnone (afterRead s 0 s.flen.toNat)
    obtain ⟨-, -, -, -, -, hfb⟩ := decodeFrame_keeps cfg s
    rw [heq] at hfb ⊢
    generalize memRead s 0 s.flen.toNat = f at *
    rw [acceptFrame_eq] at hfb hrx ⊢
    refine ⟨by rw [hfb]; exact h.fb_wf, by rw [hfb]; exact h.fb_below, .inr hrx, fun _ => ⟨hrx, rfl⟩, fun _ => rfl,
      fun herr => ?_, fun herr => ?_⟩
    · refine bne_iff_ne.2 fun heq => ?_
      simp [heq] at herr
    · dsimp only at herr
      split at herr <;> simp at herr

theorem Inv.encodeFrame {cfg : Config} {s : State} (h : Inv cfg s) : Inv cfg (encodeFrame cfg s) := by
  obtain ⟨hrx, -⟩ := encodeFrame_keeps cfg s
  rcases encodeFrame_cases cfg s with ⟨-, heq⟩ | ⟨hfits, heq⟩
  · rw [heq] at hrx ⊢
    exact h.of_sameRx hrx h.fb_wf h.fb_below (.inr (.inr (.inl rfl)))
  · have hlen : 0 + (txHeaderBytes cfg s).length ≤ cfg.bufBytes := by
      have hframe := (txFrameLen_le hfits).2
      rw [txFrameLen] at hframe
      rw [txHeaderBytes_length]
      omega
    rw [heq] at hrx ⊢
    exact h.of_sameRx hrx (Memory.wf_write _ _ _ h.fb_wf) (Memory.below_write _ _ _ _ hlen h.fb_below)
      (.inr (.inl rfl))

theorem Inv.commandEffect {s : State} (h : Inv Config.here s) (i : Instr) :
    Inv Config.here (commandEffect i s) := by
  cases i with
  | encode _ => exact h.encodeFrame
  | decode _ => exact h.decodeFrame
  | srst _ => exact inv_resetRegisters h.fb_wf h.fb_below
  | nop _ | crcClear _ | crcWord _ | crcByte _ =>
    exact h.of_sameRx (by simp [SameRx, Machine.commandEffect]) h.fb_wf h.fb_below (.inr (.inl rfl))

/-- Settles O58: right after reset every register has its reset value and FB is empty. -/
theorem invariantHoldsAtReset : Obligations.InvariantHoldsAtReset :=
  fun _ => inv_resetRegisters (s := State.reset) rfl rfl

/-- Settles O59: of everything a step can do (`stepCase`), the accesses keep the RX registers and the order of FB
(`Inv.of_sameRx`), the commands keep the invariant (`Inv.commandEffect`), and a hardware reset restores it. -/
theorem invariantIsKeptByEveryStep : Obligations.InvariantIsKeptByEveryStep := by
  intro s t h hstep
  cases stepCase hstep with
  | quiet => exact h.of_sameRx (by simp [SameRx]) h.fb_wf h.fb_below (.inl rfl)
  | bufWrite rest i b hin hi =>
    exact h.of_sameRx (by simp [SameRx]) (Memory.wf_set _ i b h.fb_wf) (Memory.below_set _ _ i b hi h.fb_below)
      (.inl rfl)
  | regWrite rest r v hin =>
    obtain ⟨hrx, herr, hfb⟩ := writeReg_keeps_rx { s with inputs := rest } r v
    exact h.of_sameRx hrx (by rw [hfb]; exact h.fb_wf) (by rw [hfb]; exact h.fb_below) (.inl herr)
  | illegal => exact h.of_sameRx (by simp [SameRx]) h.fb_wf h.fb_below (.inr (.inr (.inr rfl)))
  | command rest v i hin hv =>
    have hinputs : Inv Config.here { s with inputs := rest } :=
      h.of_sameRx (by simp [SameRx]) h.fb_wf h.fb_below (.inl rfl)
    exact hinputs.commandEffect i
  | hardReset rest hin => exact inv_resetRegisters (s := { s with inputs := rest, fb := [] }) rfl rfl

end Sys2Proof.Machine

end
